-- ==== Sys2Proof/Word.lean ====
section
/-! DEFINITION. The two word types of the hardware (00_scope.md R6, R8): a byte is 8 bits, an address or program
counter is 16 bits; `+` and `-` on them wrap (R9, R13). -/

namespace Sys2Proof

/-- An 8-bit value: the data width, and the width of `A`, `X`, `Y`, `SP` and `P` (R6). -/
abbrev Byte := BitVec 8

/-- A 16-bit value: `PC` and every address (R6). -/
abbrev Word := BitVec 16

end Sys2Proof
end

