-- ==== Sys2Proof/Syntax.lean ====
section
/-! DEFINITION. The instruction set as syntax: the thirteen addressing modes (30_encoding.md R92), the operand forms
that carry the instruction's operand bytes (R93), and the rows of an opcode table (R94), and `Instr`, one constructor
for each of the 80 mnemonics of the opcode table (R95, R96). A mnemonic with several opcode bytes for one mode (`DOP
TOP NOP* AAC KIL`), and `XAA`, whose fault records it, carries its opcode byte. -/

namespace Sys2Proof

/-- The thirteen addressing modes (R92). -/
inductive Mode where
  | implied | accumulator | immediate | relative
  | zeroPage | zeroPageX | zeroPageY
  | absolute | absoluteX | absoluteY | indirect
  | indirectX | indirectY
deriving DecidableEq, Repr

/-- The closed set of mnemonics (R94): 56 official (R95), 24 undocumented (R96). -/
inductive Mnemonic where
  | lda | ldx | ldy | sta | stx | sty | tax | tay | tsx | txa | tya | txs
  | adc | sbc | and | ora | eor | cmp | cpx | cpy | bit
  | asl | lsr | rol | ror | inc | dec | inx | iny | dex | dey
  | bcc | bcs | beq | bne | bmi | bpl | bvc | bvs | jmp | jsr | rts | rti | brk
  | pha | pla | php | plp | clc | sec | cld | sed | cli | sei | clv | nop
  | lax | sax | dcp | isb | slo | rla | sre | rra | dop | top | nopStar | sbcStar | aac | arr
  | asr | atx | axs | axa | sxa | sya | xas | lar | kil | xaa
deriving DecidableEq, Repr

/-- A row of the opcode table (R94): the mnemonic and the mode together select the instruction rule; the cycles are the
base cycles of R122. -/
structure OpcodeRow where
  mnemonic : Mnemonic
  mode     : Mode
  cycles   : Nat
deriving DecidableEq, Repr

/-- A data operand in memory, with the operand bytes of the instruction (R93). -/
inductive Addressing where
  | zp (b : Byte)
  | zpx (b : Byte)
  | zpy (b : Byte)
  | abs (w : Word)
  | abx (w : Word)
  | aby (w : Word)
  | inx (b : Byte)
  | iny (b : Byte)
deriving DecidableEq, Repr

/-- A data operand: the immediate byte, the accumulator, or a byte of memory. -/
inductive Operand where
  | imm (b : Byte)
  | acc
  | mem (m : Addressing)
deriving DecidableEq, Repr

/-- The operand of `JMP`: the target itself, or a pointer to it (R130, R133). -/
inductive JumpTarget where
  | abs (w : Word)
  | ind (w : Word)
deriving DecidableEq, Repr

def Addressing.mode : Addressing → Mode
  | .zp _ => .zeroPage
  | .zpx _ => .zeroPageX
  | .zpy _ => .zeroPageY
  | .abs _ => .absolute
  | .abx _ => .absoluteX
  | .aby _ => .absoluteY
  | .inx _ => .indirectX
  | .iny _ => .indirectY

def Operand.mode : Operand → Mode
  | .imm _ => .immediate
  | .acc => .accumulator
  | .mem m => m.mode

def JumpTarget.mode : JumpTarget → Mode
  | .abs _ => .absolute
  | .ind _ => .indirect

/-- One constructor per mnemonic of `opcode_table.json`, with its operands. A branch carries its offset byte, `JSR`
and the single-mode unstable instructions their 16-bit operand, an Immediate-only instruction its operand byte, and
`XAA` its opcode byte and the byte after it. -/
inductive Instr where
  -- loads, stores, transfers (41_load_store_transfer.md)
  | lda (m : Operand)
  | ldx (m : Operand)
  | ldy (m : Operand)
  | sta (m : Addressing)
  | stx (m : Addressing)
  | sty (m : Addressing)
  | tax
  | tay
  | tsx
  | txa
  | tya
  | txs
  -- arithmetic, logic, compares, bit test (42_arithmetic_logic.md)
  | adc (m : Operand)
  | sbc (m : Operand)
  | and (m : Operand)
  | ora (m : Operand)
  | eor (m : Operand)
  | cmp (m : Operand)
  | cpx (m : Operand)
  | cpy (m : Operand)
  | bit (m : Addressing)
  -- shifts, rotates, increments, decrements (43_shift_incdec.md)
  | asl (m : Operand)
  | lsr (m : Operand)
  | rol (m : Operand)
  | ror (m : Operand)
  | inc (m : Addressing)
  | dec (m : Addressing)
  | inx
  | iny
  | dex
  | dey
  -- branches, jumps, subroutines, returns, BRK (44_control_stack_flags.md)
  | bcc (off : Byte)
  | bcs (off : Byte)
  | beq (off : Byte)
  | bne (off : Byte)
  | bmi (off : Byte)
  | bpl (off : Byte)
  | bvc (off : Byte)
  | bvs (off : Byte)
  | jmp (t : JumpTarget)
  | jsr (w : Word)
  | rts
  | rti
  | brk
  -- stack and flag instructions, NOP (44_control_stack_flags.md)
  | pha
  | pla
  | php
  | plp
  | clc
  | sec
  | cld
  | sed
  | cli
  | sei
  | clv
  | nop
  -- undocumented instructions (45_undocumented.md)
  | lax (m : Addressing)
  | sax (m : Addressing)
  | dcp (m : Addressing)
  | isb (m : Addressing)
  | slo (m : Addressing)
  | rla (m : Addressing)
  | sre (m : Addressing)
  | rra (m : Addressing)
  | dop (op : Byte) (m : Operand)
  | top (op : Byte) (m : Addressing)
  | nopStar (op : Byte)
  | sbcStar (b : Byte)
  | aac (op : Byte) (b : Byte)
  | arr (b : Byte)
  | asr (b : Byte)
  | atx (b : Byte)
  | axs (b : Byte)
  | axa (m : Addressing)
  | sxa (w : Word)
  | sya (w : Word)
  | xas (w : Word)
  | lar (w : Word)
  | kil (op : Byte)
  | xaa (bytes : Byte × Byte)
deriving DecidableEq, Repr

/-- The addressing mode of an instruction (R92, R95, R96). -/
def Instr.mode : Instr → Mode
  | .lda m | .ldx m | .ldy m => m.mode
  | .sta m | .stx m | .sty m => m.mode
  | .tax | .tay | .tsx | .txa | .tya | .txs => .implied
  | .adc m | .sbc m | .and m | .ora m | .eor m | .cmp m | .cpx m | .cpy m => m.mode
  | .bit m => m.mode
  | .asl m | .lsr m | .rol m | .ror m => m.mode
  | .inc m | .dec m => m.mode
  | .inx | .iny | .dex | .dey => .implied
  | .bcc _ | .bcs _ | .beq _ | .bne _ | .bmi _ | .bpl _ | .bvc _ | .bvs _ => .relative
  | .jmp t => t.mode
  | .jsr _ => .absolute
  | .rts | .rti | .brk => .implied
  | .pha | .pla | .php | .plp => .implied
  | .clc | .sec | .cld | .sed | .cli | .sei | .clv | .nop => .implied
  | .lax m | .sax m | .dcp m | .isb m | .slo m | .rla m | .sre m | .rra m => m.mode
  | .dop _ m => m.mode
  | .top _ m => m.mode
  | .nopStar _ => .implied
  | .sbcStar _ | .aac _ _ | .arr _ | .asr _ | .atx _ | .axs _ => .immediate
  | .axa m => m.mode
  | .sxa _ => .absoluteY
  | .sya _ => .absoluteX
  | .xas _ | .lar _ => .absoluteY
  | .kil _ => .implied
  | .xaa _ => .immediate

/-- The mnemonic of an instruction. -/
def Instr.mnemonic : Instr → Mnemonic
  | .lda _ => .lda
  | .ldx _ => .ldx
  | .ldy _ => .ldy
  | .sta _ => .sta
  | .stx _ => .stx
  | .sty _ => .sty
  | .tax => .tax
  | .tay => .tay
  | .tsx => .tsx
  | .txa => .txa
  | .tya => .tya
  | .txs => .txs
  | .adc _ => .adc
  | .sbc _ => .sbc
  | .and _ => .and
  | .ora _ => .ora
  | .eor _ => .eor
  | .cmp _ => .cmp
  | .cpx _ => .cpx
  | .cpy _ => .cpy
  | .bit _ => .bit
  | .asl _ => .asl
  | .lsr _ => .lsr
  | .rol _ => .rol
  | .ror _ => .ror
  | .inc _ => .inc
  | .dec _ => .dec
  | .inx => .inx
  | .iny => .iny
  | .dex => .dex
  | .dey => .dey
  | .bcc _ => .bcc
  | .bcs _ => .bcs
  | .beq _ => .beq
  | .bne _ => .bne
  | .bmi _ => .bmi
  | .bpl _ => .bpl
  | .bvc _ => .bvc
  | .bvs _ => .bvs
  | .jmp _ => .jmp
  | .jsr _ => .jsr
  | .rts => .rts
  | .rti => .rti
  | .brk => .brk
  | .pha => .pha
  | .pla => .pla
  | .php => .php
  | .plp => .plp
  | .clc => .clc
  | .sec => .sec
  | .cld => .cld
  | .sed => .sed
  | .cli => .cli
  | .sei => .sei
  | .clv => .clv
  | .nop => .nop
  | .lax _ => .lax
  | .sax _ => .sax
  | .dcp _ => .dcp
  | .isb _ => .isb
  | .slo _ => .slo
  | .rla _ => .rla
  | .sre _ => .sre
  | .rra _ => .rra
  | .dop _ _ => .dop
  | .top _ _ => .top
  | .nopStar _ => .nopStar
  | .sbcStar _ => .sbcStar
  | .aac _ _ => .aac
  | .arr _ => .arr
  | .asr _ => .asr
  | .atx _ => .atx
  | .axs _ => .axs
  | .axa _ => .axa
  | .sxa _ => .sxa
  | .sya _ => .sya
  | .xas _ => .xas
  | .lar _ => .lar
  | .kil _ => .kil
  | .xaa _ => .xaa

end Sys2Proof
end

