-- ==== Sys2Proof/Config.lean ====
section
/-! DEFINITION. What is fixed for one machine (00_scope.md R7) and the values the spec leaves open. The parameters a
program run can be configured with are plain data (`Config`); the open values are opaque constants without a body, so
that no proof can rest on one of them. -/

namespace Sys2Proof

/-- The two admitted lengths of the cartridge's program ROM (R38; any other length is refused at construction, D6). -/
inductive PrgSize where
  | kib16
  | kib32
deriving DecidableEq, Repr

/-- The PPU hook bound to the bus (R7): the null hook (a read returns 0, a write is discarded), or a hook outside the
block, whose answers the spec leaves free (R53, D11). -/
inductive PpuPort where
  | null
  | external
deriving DecidableEq, Repr

/-- One call of the PPU hook (R39): the register index, and for a write the value. -/
inductive PpuCall where
  | read (reg : BitVec 3)
  | write (reg : BitVec 3) (v : Byte)
deriving DecidableEq, Repr

/-- `BRK_MODE` (R7, R222). -/
inductive BrkMode where
  | halt
  | vectored
deriving DecidableEq, Repr

/-- `UNSTABLE_STORES` (R7, D15): whether `AXA SXA SYA XAS LAR` have the meaning of rules R267 to R271 or none. -/
inductive UnstableStores where
  | refuse
  | asSpecified
deriving DecidableEq, Repr

/-- The configuration of one machine (R7, R44). `optable` holds the rows in which this machine's `OPTABLE` differs
from the default table (R94): another row for a byte, or no row (D1). The default differs in none. Log entries 1, 2
and 25. -/
structure Config where
  prgSize         : PrgSize
  ppu             : PpuPort
  resetPcOverride : Option Word
  brkMode         : BrkMode
  optable         : List (Byte × Option OpcodeRow)
  unstableStores  : UnstableStores
deriving DecidableEq, Repr

/-- `ATX_MAGIC` (R7, R265): a configuration byte the spec leaves OPEN (D14). A free value; log entry 11. -/
opaque Config.atxMagic : Byte

/-- What a hook outside the block answers to a read of a register, given every call made on it before, newest first
(R53, D11). A free value; log entry 10. -/
opaque Config.ppuHookValue : List PpuCall → BitVec 3 → Byte

/-- What `cycles` holds after a step that halts the run, given what it held before: the spec leaves it unspecified
(R122, D8). A free value; log entry 5. -/
opaque Config.cyclesAfterHalt : Nat → Nat

/-- What `cycles` holds after `reset()`, given what it held before: the spec leaves it unspecified (R43, D8). A free
value; log entry 5. -/
opaque Config.cyclesAfterReset : Nat → Nat

end Sys2Proof
end

