-- ==== Sys2Proof/WellFormed.lean ====
section
/-! DEFINITION. Which instructions exist: the addressing modes the spec gives each mnemonic (30_encoding.md R95, R96,
and the **Operands** line of each instruction's rule), and for a mnemonic that carries its opcode byte, which bytes it
has. -/

namespace Sys2Proof

/-- "The eight ALU modes" (42_arithmetic_logic.md). -/
def aluModes : List Mode :=
  [.immediate, .zeroPage, .zeroPageX, .absolute, .absoluteX, .absoluteY, .indirectX, .indirectY]

/-- The modes of the shifts (R190 to R193). -/
def shiftModes : List Mode := [.accumulator, .zeroPage, .zeroPageX, .absolute, .absoluteX]

/-- The modes of the read-modify-write compositions (R252). -/
def compositionModes : List Mode :=
  [.zeroPage, .zeroPageX, .absolute, .absoluteX, .absoluteY, .indirectX, .indirectY]

/-- The 14 `DOP` bytes by mode (R258). -/
def dopBytes : Mode → List Byte
  | .immediate => [0x80, 0x82, 0x89, 0xC2, 0xE2]
  | .zeroPage => [0x04, 0x44, 0x64]
  | .zeroPageX => [0x14, 0x34, 0x54, 0x74, 0xD4, 0xF4]
  | .implied | .accumulator | .relative | .zeroPageY | .absolute | .absoluteX | .absoluteY
  | .indirect | .indirectX | .indirectY => []

/-- The 7 `TOP` bytes by mode (R259). -/
def topBytes : Mode → List Byte
  | .absolute => [0x0C]
  | .absoluteX => [0x1C, 0x3C, 0x5C, 0x7C, 0xDC, 0xFC]
  | .implied | .accumulator | .immediate | .relative | .zeroPage | .zeroPageX | .zeroPageY | .absoluteY
  | .indirect | .indirectX | .indirectY => []

/-- The 6 `NOP*` bytes (R260). -/
def nopStarBytes : List Byte := [0x1A, 0x3A, 0x5A, 0x7A, 0xDA, 0xFA]

/-- The 2 `AAC` bytes (R262). -/
def aacBytes : List Byte := [0x0B, 0x2B]

/-- The 12 `KIL` bytes (R272). -/
def kilBytes : List Byte :=
  [0x02, 0x12, 0x22, 0x32, 0x42, 0x52, 0x62, 0x72, 0x92, 0xB2, 0xD2, 0xF2]

/-- The addressing modes of a mnemonic: the **Operands** line of its rule. -/
def modesOf : Mnemonic → List Mode
  | .lda => aluModes
  | .ldx => [.immediate, .zeroPage, .zeroPageY, .absolute, .absoluteY]
  | .ldy => [.immediate, .zeroPage, .zeroPageX, .absolute, .absoluteX]
  | .sta => compositionModes
  | .stx => [.zeroPage, .zeroPageY, .absolute]
  | .sty => [.zeroPage, .zeroPageX, .absolute]
  | .tax | .tay | .tsx | .txa | .tya | .txs => [.implied]
  | .adc | .sbc | .and | .ora | .eor | .cmp => aluModes
  | .cpx | .cpy => [.immediate, .zeroPage, .absolute]
  | .bit => [.zeroPage, .absolute]
  | .asl | .lsr | .rol | .ror => shiftModes
  | .inc | .dec => [.zeroPage, .zeroPageX, .absolute, .absoluteX]
  | .inx | .iny | .dex | .dey => [.implied]
  | .bcc | .bcs | .beq | .bne | .bmi | .bpl | .bvc | .bvs => [.relative]
  | .jmp => [.absolute, .indirect]
  | .jsr => [.absolute]
  | .rts | .rti | .brk | .pha | .pla | .php | .plp => [.implied]
  | .clc | .sec | .cld | .sed | .cli | .sei | .clv | .nop => [.implied]
  | .lax => [.zeroPage, .zeroPageY, .absolute, .absoluteY, .indirectX, .indirectY]
  | .sax => [.zeroPage, .zeroPageY, .absolute, .indirectX]
  | .dcp | .isb | .slo | .rla | .sre | .rra => compositionModes
  | .dop => [.immediate, .zeroPage, .zeroPageX]
  | .top => [.absolute, .absoluteX]
  | .nopStar => [.implied]
  | .sbcStar | .aac | .arr | .asr | .atx | .axs => [.immediate]
  | .axa => [.absoluteY, .indirectY]
  | .sxa => [.absoluteY]
  | .sya => [.absoluteX]
  | .xas | .lar => [.absoluteY]
  | .kil => [.implied]
  | .xaa => [.immediate]

/-- The opcode byte an instruction carries, if any, is one of its mnemonic's in its mode (R96). -/
def Instr.ownByte : Instr → Bool
  | .dop op m => (dopBytes m.mode).contains op
  | .top op m => (topBytes m.mode).contains op
  | .nopStar op => nopStarBytes.contains op
  | .aac op _ => aacBytes.contains op
  | .kil op => kilBytes.contains op
  | .xaa bytes => bytes.1 == 0x8B
  | .lda _ | .ldx _ | .ldy _ | .sta _ | .stx _ | .sty _ | .tax | .tay | .tsx | .txa | .tya | .txs => true
  | .adc _ | .sbc _ | .and _ | .ora _ | .eor _ | .cmp _ | .cpx _ | .cpy _ | .bit _ => true
  | .asl _ | .lsr _ | .rol _ | .ror _ | .inc _ | .dec _ | .inx | .iny | .dex | .dey => true
  | .bcc _ | .bcs _ | .beq _ | .bne _ | .bmi _ | .bpl _ | .bvc _ | .bvs _ | .jmp _ | .jsr _ | .rts | .rti | .brk => true
  | .pha | .pla | .php | .plp | .clc | .sec | .cld | .sed | .cli | .sei | .clv | .nop => true
  | .lax _ | .sax _ | .dcp _ | .isb _ | .slo _ | .rla _ | .sre _ | .rra _ | .sbcStar _ => true
  | .arr _ | .asr _ | .atx _ | .axs _ | .axa _ | .sxa _ | .sya _ | .xas _ | .lar _ => true

/-- The instruction exists in the spec's opcode table: its mode is one its mnemonic has, and the opcode byte it
carries, if any, is one of its mnemonic's. -/
def Instr.wellFormed (i : Instr) : Bool := i.ownByte && (modesOf i.mnemonic).contains i.mode

end Sys2Proof
end

