-- ==== Sys2Proof/Decode.lean ====
section
/-! DEFINITION. The decoder, total on any bytes and rejecting by name, and after it the encoder. The decoder looks the
opcode byte up in an opcode table (30_encoding.md R94), whose default is the opcode map R97; the encoder is written
from the per-mnemonic lists of R95 and R96. The byte helpers both need (byte order, sign extension) stand here too.
Every row of the default table but the seven the source witnesses is the spec's general-knowledge matrix (G1, D1): log
entry 14. -/

namespace Sys2Proof

/-- `lo(w)`, bits 7 to 0 (R12). -/
def lo (w : Word) : Byte := w.extractLsb' 0 8

/-- `hi(w)`, bits 15 to 8 (R12). -/
def hi (w : Word) : Byte := w.extractLsb' 8 8

/-- `{h, l}`: the high byte first (R8). -/
def wordOf (h l : Byte) : Word := h ++ l

/-- `zext_16` (R12). -/
def zext16 (b : Byte) : Word := b.setWidth 16

/-- `sext_16` (R12). -/
def sext16 (b : Byte) : Word := b.signExtend 16

/-- A word as instruction bytes, low byte first (R62, R91). -/
def wordBytes (w : Word) : List Byte := [lo w, hi w]

/-- Instruction size in bytes by mode (R92). -/
def Mode.size : Mode → Nat
  | .implied | .accumulator => 1
  | .immediate | .relative | .zeroPage | .zeroPageX | .zeroPageY | .indirectX | .indirectY => 2
  | .absolute | .absoluteX | .absoluteY | .indirect => 3

/-- How the bytes of an instruction go with one row of the opcode table: no operand byte, one, or two. `unread` is a
two-byte row whose second byte the step never fetches (`DOP` Immediate, R258; `XAA`, R120). -/
inductive Shape where
  | one (i : Instr)
  | two (f : Byte → Instr)
  | unread (f : Byte → Instr)
  | three (f : Word → Instr)

/-- The operand bytes of a memory operand by mode (R92, R93). -/
def addressingShape (k : Addressing → Instr) : Mode → Option Shape
  | .zeroPage => some (.two fun b => k (.zp b))
  | .zeroPageX => some (.two fun b => k (.zpx b))
  | .zeroPageY => some (.two fun b => k (.zpy b))
  | .absolute => some (.three fun w => k (.abs w))
  | .absoluteX => some (.three fun w => k (.abx w))
  | .absoluteY => some (.three fun w => k (.aby w))
  | .indirectX => some (.two fun b => k (.inx b))
  | .indirectY => some (.two fun b => k (.iny b))
  | .implied | .accumulator | .immediate | .relative | .indirect => none

/-- The operand bytes of a data operand by mode (R92, R93). -/
def operandShape (k : Operand → Instr) : Mode → Option Shape
  | .immediate => some (.two fun b => k (.imm b))
  | .accumulator => some (.one (k .acc))
  | m => addressingShape (fun ad => k (.mem ad)) m

/-- What a mnemonic makes of its operand bytes in a mode; a mnemonic with a single mode does not look at it. -/
def instrShape (op : Byte) (mnemonic : Mnemonic) (mode : Mode) : Option Shape :=
  match mnemonic with
  | .lda => operandShape .lda mode
  | .ldx => operandShape .ldx mode
  | .ldy => operandShape .ldy mode
  | .sta => addressingShape .sta mode
  | .stx => addressingShape .stx mode
  | .sty => addressingShape .sty mode
  | .tax => some (.one .tax)
  | .tay => some (.one .tay)
  | .tsx => some (.one .tsx)
  | .txa => some (.one .txa)
  | .tya => some (.one .tya)
  | .txs => some (.one .txs)
  | .adc => operandShape .adc mode
  | .sbc => operandShape .sbc mode
  | .and => operandShape .and mode
  | .ora => operandShape .ora mode
  | .eor => operandShape .eor mode
  | .cmp => operandShape .cmp mode
  | .cpx => operandShape .cpx mode
  | .cpy => operandShape .cpy mode
  | .bit => addressingShape .bit mode
  | .asl => operandShape .asl mode
  | .lsr => operandShape .lsr mode
  | .rol => operandShape .rol mode
  | .ror => operandShape .ror mode
  | .inc => addressingShape .inc mode
  | .dec => addressingShape .dec mode
  | .inx => some (.one .inx)
  | .iny => some (.one .iny)
  | .dex => some (.one .dex)
  | .dey => some (.one .dey)
  | .bcc => some (.two .bcc)
  | .bcs => some (.two .bcs)
  | .beq => some (.two .beq)
  | .bne => some (.two .bne)
  | .bmi => some (.two .bmi)
  | .bpl => some (.two .bpl)
  | .bvc => some (.two .bvc)
  | .bvs => some (.two .bvs)
  | .jmp =>
    match mode with
    | .indirect => some (.three fun w => .jmp (.ind w))
    | _ => some (.three fun w => .jmp (.abs w))
  | .jsr => some (.three .jsr)
  | .rts => some (.one .rts)
  | .rti => some (.one .rti)
  | .brk => some (.one .brk)
  | .pha => some (.one .pha)
  | .pla => some (.one .pla)
  | .php => some (.one .php)
  | .plp => some (.one .plp)
  | .clc => some (.one .clc)
  | .sec => some (.one .sec)
  | .cld => some (.one .cld)
  | .sed => some (.one .sed)
  | .cli => some (.one .cli)
  | .sei => some (.one .sei)
  | .clv => some (.one .clv)
  | .nop => some (.one .nop)
  | .lax => addressingShape .lax mode
  | .sax => addressingShape .sax mode
  | .dcp => addressingShape .dcp mode
  | .isb => addressingShape .isb mode
  | .slo => addressingShape .slo mode
  | .rla => addressingShape .rla mode
  | .sre => addressingShape .sre mode
  | .rra => addressingShape .rra mode
  | .dop =>
    match mode with
    | .immediate => some (.unread fun b => .dop op (.imm b))
    | m => operandShape (.dop op) m
  | .top => addressingShape (.top op) mode
  | .nopStar => some (.one (.nopStar op))
  | .sbcStar => some (.two .sbcStar)
  | .aac => some (.two (.aac op))
  | .arr => some (.two .arr)
  | .asr => some (.two .asr)
  | .atx => some (.two .atx)
  | .axs => some (.two .axs)
  | .axa => addressingShape .axa mode
  | .sxa => some (.three .sxa)
  | .sya => some (.three .sya)
  | .xas => some (.three .xas)
  | .lar => some (.three .lar)
  | .kil => some (.one (.kil op))
  | .xaa => some (.unread fun b => .xaa (op, b))

/-- Whether the spec has an instruction rule for a row's mnemonic and mode, which select it together (R94): the mode
is on the **Operands** line of the mnemonic's rule. `KIL` and `XAA` are raised before their mode is looked at (R120).
-/
def OpcodeRow.hasRule (row : OpcodeRow) : Bool :=
  match row.mnemonic with
  | .kil | .xaa => true
  | m => (modesOf m).contains row.mode

/-- The instruction a row starts, as a function of its operand bytes; none for a row without an instruction rule. -/
def rowShape (op : Byte) (row : OpcodeRow) : Option Shape :=
  if row.hasRule then instrShape op row.mnemonic row.mode else none

/-- Row 0x of the opcode map (R97), with the base cycles of R351. -/
def opcodeRow0 : List OpcodeRow := [
  ⟨.brk, .implied, 7⟩, -- 00
  ⟨.ora, .indirectX, 6⟩, -- 01
  ⟨.kil, .implied, 0⟩, -- 02
  ⟨.slo, .indirectX, 8⟩, -- 03
  ⟨.dop, .zeroPage, 3⟩, -- 04
  ⟨.ora, .zeroPage, 3⟩, -- 05
  ⟨.asl, .zeroPage, 5⟩, -- 06
  ⟨.slo, .zeroPage, 5⟩, -- 07
  ⟨.php, .implied, 3⟩, -- 08
  ⟨.ora, .immediate, 2⟩, -- 09
  ⟨.asl, .accumulator, 2⟩, -- 0A
  ⟨.aac, .immediate, 2⟩, -- 0B
  ⟨.top, .absolute, 4⟩, -- 0C
  ⟨.ora, .absolute, 4⟩, -- 0D
  ⟨.asl, .absolute, 6⟩, -- 0E
  ⟨.slo, .absolute, 6⟩] -- 0F

/-- Row 1x of the opcode map (R97), with the base cycles of R351. -/
def opcodeRow1 : List OpcodeRow := [
  ⟨.bpl, .relative, 2⟩, -- 10
  ⟨.ora, .indirectY, 5⟩, -- 11
  ⟨.kil, .implied, 0⟩, -- 12
  ⟨.slo, .indirectY, 8⟩, -- 13
  ⟨.dop, .zeroPageX, 4⟩, -- 14
  ⟨.ora, .zeroPageX, 4⟩, -- 15
  ⟨.asl, .zeroPageX, 6⟩, -- 16
  ⟨.slo, .zeroPageX, 6⟩, -- 17
  ⟨.clc, .implied, 2⟩, -- 18
  ⟨.ora, .absoluteY, 4⟩, -- 19
  ⟨.nopStar, .implied, 2⟩, -- 1A
  ⟨.slo, .absoluteY, 7⟩, -- 1B
  ⟨.top, .absoluteX, 4⟩, -- 1C
  ⟨.ora, .absoluteX, 4⟩, -- 1D
  ⟨.asl, .absoluteX, 7⟩, -- 1E
  ⟨.slo, .absoluteX, 7⟩] -- 1F

/-- Row 2x of the opcode map (R97), with the base cycles of R351. -/
def opcodeRow2 : List OpcodeRow := [
  ⟨.jsr, .absolute, 6⟩, -- 20
  ⟨.and, .indirectX, 6⟩, -- 21
  ⟨.kil, .implied, 0⟩, -- 22
  ⟨.rla, .indirectX, 8⟩, -- 23
  ⟨.bit, .zeroPage, 3⟩, -- 24
  ⟨.and, .zeroPage, 3⟩, -- 25
  ⟨.rol, .zeroPage, 5⟩, -- 26
  ⟨.rla, .zeroPage, 5⟩, -- 27
  ⟨.plp, .implied, 4⟩, -- 28
  ⟨.and, .immediate, 2⟩, -- 29
  ⟨.rol, .accumulator, 2⟩, -- 2A
  ⟨.aac, .immediate, 2⟩, -- 2B
  ⟨.bit, .absolute, 4⟩, -- 2C
  ⟨.and, .absolute, 4⟩, -- 2D
  ⟨.rol, .absolute, 6⟩, -- 2E
  ⟨.rla, .absolute, 6⟩] -- 2F

/-- Row 3x of the opcode map (R97), with the base cycles of R351. -/
def opcodeRow3 : List OpcodeRow := [
  ⟨.bmi, .relative, 2⟩, -- 30
  ⟨.and, .indirectY, 5⟩, -- 31
  ⟨.kil, .implied, 0⟩, -- 32
  ⟨.rla, .indirectY, 8⟩, -- 33
  ⟨.dop, .zeroPageX, 4⟩, -- 34
  ⟨.and, .zeroPageX, 4⟩, -- 35
  ⟨.rol, .zeroPageX, 6⟩, -- 36
  ⟨.rla, .zeroPageX, 6⟩, -- 37
  ⟨.sec, .implied, 2⟩, -- 38
  ⟨.and, .absoluteY, 4⟩, -- 39
  ⟨.nopStar, .implied, 2⟩, -- 3A
  ⟨.rla, .absoluteY, 7⟩, -- 3B
  ⟨.top, .absoluteX, 4⟩, -- 3C
  ⟨.and, .absoluteX, 4⟩, -- 3D
  ⟨.rol, .absoluteX, 7⟩, -- 3E
  ⟨.rla, .absoluteX, 7⟩] -- 3F

/-- Row 4x of the opcode map (R97), with the base cycles of R351. -/
def opcodeRow4 : List OpcodeRow := [
  ⟨.rti, .implied, 6⟩, -- 40
  ⟨.eor, .indirectX, 6⟩, -- 41
  ⟨.kil, .implied, 0⟩, -- 42
  ⟨.sre, .indirectX, 8⟩, -- 43
  ⟨.dop, .zeroPage, 3⟩, -- 44
  ⟨.eor, .zeroPage, 3⟩, -- 45
  ⟨.lsr, .zeroPage, 5⟩, -- 46
  ⟨.sre, .zeroPage, 5⟩, -- 47
  ⟨.pha, .implied, 3⟩, -- 48
  ⟨.eor, .immediate, 2⟩, -- 49
  ⟨.lsr, .accumulator, 2⟩, -- 4A
  ⟨.asr, .immediate, 2⟩, -- 4B
  ⟨.jmp, .absolute, 3⟩, -- 4C
  ⟨.eor, .absolute, 4⟩, -- 4D
  ⟨.lsr, .absolute, 6⟩, -- 4E
  ⟨.sre, .absolute, 6⟩] -- 4F

/-- Row 5x of the opcode map (R97), with the base cycles of R351. -/
def opcodeRow5 : List OpcodeRow := [
  ⟨.bvc, .relative, 2⟩, -- 50
  ⟨.eor, .indirectY, 5⟩, -- 51
  ⟨.kil, .implied, 0⟩, -- 52
  ⟨.sre, .indirectY, 8⟩, -- 53
  ⟨.dop, .zeroPageX, 4⟩, -- 54
  ⟨.eor, .zeroPageX, 4⟩, -- 55
  ⟨.lsr, .zeroPageX, 6⟩, -- 56
  ⟨.sre, .zeroPageX, 6⟩, -- 57
  ⟨.cli, .implied, 2⟩, -- 58
  ⟨.eor, .absoluteY, 4⟩, -- 59
  ⟨.nopStar, .implied, 2⟩, -- 5A
  ⟨.sre, .absoluteY, 7⟩, -- 5B
  ⟨.top, .absoluteX, 4⟩, -- 5C
  ⟨.eor, .absoluteX, 4⟩, -- 5D
  ⟨.lsr, .absoluteX, 7⟩, -- 5E
  ⟨.sre, .absoluteX, 7⟩] -- 5F

/-- Row 6x of the opcode map (R97), with the base cycles of R351. -/
def opcodeRow6 : List OpcodeRow := [
  ⟨.rts, .implied, 6⟩, -- 60
  ⟨.adc, .indirectX, 6⟩, -- 61
  ⟨.kil, .implied, 0⟩, -- 62
  ⟨.rra, .indirectX, 8⟩, -- 63
  ⟨.dop, .zeroPage, 3⟩, -- 64
  ⟨.adc, .zeroPage, 3⟩, -- 65
  ⟨.ror, .zeroPage, 5⟩, -- 66
  ⟨.rra, .zeroPage, 5⟩, -- 67
  ⟨.pla, .implied, 4⟩, -- 68
  ⟨.adc, .immediate, 2⟩, -- 69
  ⟨.ror, .accumulator, 2⟩, -- 6A
  ⟨.arr, .immediate, 2⟩, -- 6B
  ⟨.jmp, .indirect, 5⟩, -- 6C
  ⟨.adc, .absolute, 4⟩, -- 6D
  ⟨.ror, .absolute, 6⟩, -- 6E
  ⟨.rra, .absolute, 6⟩] -- 6F

/-- Row 7x of the opcode map (R97), with the base cycles of R351. -/
def opcodeRow7 : List OpcodeRow := [
  ⟨.bvs, .relative, 2⟩, -- 70
  ⟨.adc, .indirectY, 5⟩, -- 71
  ⟨.kil, .implied, 0⟩, -- 72
  ⟨.rra, .indirectY, 8⟩, -- 73
  ⟨.dop, .zeroPageX, 4⟩, -- 74
  ⟨.adc, .zeroPageX, 4⟩, -- 75
  ⟨.ror, .zeroPageX, 6⟩, -- 76
  ⟨.rra, .zeroPageX, 6⟩, -- 77
  ⟨.sei, .implied, 2⟩, -- 78
  ⟨.adc, .absoluteY, 4⟩, -- 79
  ⟨.nopStar, .implied, 2⟩, -- 7A
  ⟨.rra, .absoluteY, 7⟩, -- 7B
  ⟨.top, .absoluteX, 4⟩, -- 7C
  ⟨.adc, .absoluteX, 4⟩, -- 7D
  ⟨.ror, .absoluteX, 7⟩, -- 7E
  ⟨.rra, .absoluteX, 7⟩] -- 7F

/-- Row 8x of the opcode map (R97), with the base cycles of R351. -/
def opcodeRow8 : List OpcodeRow := [
  ⟨.dop, .immediate, 2⟩, -- 80
  ⟨.sta, .indirectX, 6⟩, -- 81
  ⟨.dop, .immediate, 2⟩, -- 82
  ⟨.sax, .indirectX, 6⟩, -- 83
  ⟨.sty, .zeroPage, 3⟩, -- 84
  ⟨.sta, .zeroPage, 3⟩, -- 85
  ⟨.stx, .zeroPage, 3⟩, -- 86
  ⟨.sax, .zeroPage, 3⟩, -- 87
  ⟨.dey, .implied, 2⟩, -- 88
  ⟨.dop, .immediate, 2⟩, -- 89
  ⟨.txa, .implied, 2⟩, -- 8A
  ⟨.xaa, .immediate, 2⟩, -- 8B
  ⟨.sty, .absolute, 4⟩, -- 8C
  ⟨.sta, .absolute, 4⟩, -- 8D
  ⟨.stx, .absolute, 4⟩, -- 8E
  ⟨.sax, .absolute, 4⟩] -- 8F

/-- Row 9x of the opcode map (R97), with the base cycles of R351. -/
def opcodeRow9 : List OpcodeRow := [
  ⟨.bcc, .relative, 2⟩, -- 90
  ⟨.sta, .indirectY, 6⟩, -- 91
  ⟨.kil, .implied, 0⟩, -- 92
  ⟨.axa, .indirectY, 6⟩, -- 93
  ⟨.sty, .zeroPageX, 4⟩, -- 94
  ⟨.sta, .zeroPageX, 4⟩, -- 95
  ⟨.stx, .zeroPageY, 4⟩, -- 96
  ⟨.sax, .zeroPageY, 4⟩, -- 97
  ⟨.tya, .implied, 2⟩, -- 98
  ⟨.sta, .absoluteY, 5⟩, -- 99
  ⟨.txs, .implied, 2⟩, -- 9A
  ⟨.xas, .absoluteY, 5⟩, -- 9B
  ⟨.sya, .absoluteX, 5⟩, -- 9C
  ⟨.sta, .absoluteX, 5⟩, -- 9D
  ⟨.sxa, .absoluteY, 5⟩, -- 9E
  ⟨.axa, .absoluteY, 5⟩] -- 9F

/-- Row Ax of the opcode map (R97), with the base cycles of R351. -/
def opcodeRowA : List OpcodeRow := [
  ⟨.ldy, .immediate, 2⟩, -- A0
  ⟨.lda, .indirectX, 6⟩, -- A1
  ⟨.ldx, .immediate, 2⟩, -- A2
  ⟨.lax, .indirectX, 6⟩, -- A3
  ⟨.ldy, .zeroPage, 3⟩, -- A4
  ⟨.lda, .zeroPage, 3⟩, -- A5
  ⟨.ldx, .zeroPage, 3⟩, -- A6
  ⟨.lax, .zeroPage, 3⟩, -- A7
  ⟨.tay, .implied, 2⟩, -- A8
  ⟨.lda, .immediate, 2⟩, -- A9
  ⟨.tax, .implied, 2⟩, -- AA
  ⟨.atx, .immediate, 2⟩, -- AB
  ⟨.ldy, .absolute, 4⟩, -- AC
  ⟨.lda, .absolute, 4⟩, -- AD
  ⟨.ldx, .absolute, 4⟩, -- AE
  ⟨.lax, .absolute, 4⟩] -- AF

/-- Row Bx of the opcode map (R97), with the base cycles of R351. -/
def opcodeRowB : List OpcodeRow := [
  ⟨.bcs, .relative, 2⟩, -- B0
  ⟨.lda, .indirectY, 5⟩, -- B1
  ⟨.kil, .implied, 0⟩, -- B2
  ⟨.lax, .indirectY, 5⟩, -- B3
  ⟨.ldy, .zeroPageX, 4⟩, -- B4
  ⟨.lda, .zeroPageX, 4⟩, -- B5
  ⟨.ldx, .zeroPageY, 4⟩, -- B6
  ⟨.lax, .zeroPageY, 4⟩, -- B7
  ⟨.clv, .implied, 2⟩, -- B8
  ⟨.lda, .absoluteY, 4⟩, -- B9
  ⟨.tsx, .implied, 2⟩, -- BA
  ⟨.lar, .absoluteY, 4⟩, -- BB
  ⟨.ldy, .absoluteX, 4⟩, -- BC
  ⟨.lda, .absoluteX, 4⟩, -- BD
  ⟨.ldx, .absoluteY, 4⟩, -- BE
  ⟨.lax, .absoluteY, 4⟩] -- BF

/-- Row Cx of the opcode map (R97), with the base cycles of R351. -/
def opcodeRowC : List OpcodeRow := [
  ⟨.cpy, .immediate, 2⟩, -- C0
  ⟨.cmp, .indirectX, 6⟩, -- C1
  ⟨.dop, .immediate, 2⟩, -- C2
  ⟨.dcp, .indirectX, 8⟩, -- C3
  ⟨.cpy, .zeroPage, 3⟩, -- C4
  ⟨.cmp, .zeroPage, 3⟩, -- C5
  ⟨.dec, .zeroPage, 5⟩, -- C6
  ⟨.dcp, .zeroPage, 5⟩, -- C7
  ⟨.iny, .implied, 2⟩, -- C8
  ⟨.cmp, .immediate, 2⟩, -- C9
  ⟨.dex, .implied, 2⟩, -- CA
  ⟨.axs, .immediate, 2⟩, -- CB
  ⟨.cpy, .absolute, 4⟩, -- CC
  ⟨.cmp, .absolute, 4⟩, -- CD
  ⟨.dec, .absolute, 6⟩, -- CE
  ⟨.dcp, .absolute, 6⟩] -- CF

/-- Row Dx of the opcode map (R97), with the base cycles of R351. -/
def opcodeRowD : List OpcodeRow := [
  ⟨.bne, .relative, 2⟩, -- D0
  ⟨.cmp, .indirectY, 5⟩, -- D1
  ⟨.kil, .implied, 0⟩, -- D2
  ⟨.dcp, .indirectY, 8⟩, -- D3
  ⟨.dop, .zeroPageX, 4⟩, -- D4
  ⟨.cmp, .zeroPageX, 4⟩, -- D5
  ⟨.dec, .zeroPageX, 6⟩, -- D6
  ⟨.dcp, .zeroPageX, 6⟩, -- D7
  ⟨.cld, .implied, 2⟩, -- D8
  ⟨.cmp, .absoluteY, 4⟩, -- D9
  ⟨.nopStar, .implied, 2⟩, -- DA
  ⟨.dcp, .absoluteY, 7⟩, -- DB
  ⟨.top, .absoluteX, 4⟩, -- DC
  ⟨.cmp, .absoluteX, 4⟩, -- DD
  ⟨.dec, .absoluteX, 7⟩, -- DE
  ⟨.dcp, .absoluteX, 7⟩] -- DF

/-- Row Ex of the opcode map (R97), with the base cycles of R351. -/
def opcodeRowE : List OpcodeRow := [
  ⟨.cpx, .immediate, 2⟩, -- E0
  ⟨.sbc, .indirectX, 6⟩, -- E1
  ⟨.dop, .immediate, 2⟩, -- E2
  ⟨.isb, .indirectX, 8⟩, -- E3
  ⟨.cpx, .zeroPage, 3⟩, -- E4
  ⟨.sbc, .zeroPage, 3⟩, -- E5
  ⟨.inc, .zeroPage, 5⟩, -- E6
  ⟨.isb, .zeroPage, 5⟩, -- E7
  ⟨.inx, .implied, 2⟩, -- E8
  ⟨.sbc, .immediate, 2⟩, -- E9
  ⟨.nop, .implied, 2⟩, -- EA
  ⟨.sbcStar, .immediate, 2⟩, -- EB
  ⟨.cpx, .absolute, 4⟩, -- EC
  ⟨.sbc, .absolute, 4⟩, -- ED
  ⟨.inc, .absolute, 6⟩, -- EE
  ⟨.isb, .absolute, 6⟩] -- EF

/-- Row Fx of the opcode map (R97), with the base cycles of R351. -/
def opcodeRowF : List OpcodeRow := [
  ⟨.beq, .relative, 2⟩, -- F0
  ⟨.sbc, .indirectY, 5⟩, -- F1
  ⟨.kil, .implied, 0⟩, -- F2
  ⟨.isb, .indirectY, 8⟩, -- F3
  ⟨.dop, .zeroPageX, 4⟩, -- F4
  ⟨.sbc, .zeroPageX, 4⟩, -- F5
  ⟨.inc, .zeroPageX, 6⟩, -- F6
  ⟨.isb, .zeroPageX, 6⟩, -- F7
  ⟨.sed, .implied, 2⟩, -- F8
  ⟨.sbc, .absoluteY, 4⟩, -- F9
  ⟨.nopStar, .implied, 2⟩, -- FA
  ⟨.isb, .absoluteY, 7⟩, -- FB
  ⟨.top, .absoluteX, 4⟩, -- FC
  ⟨.sbc, .absoluteX, 4⟩, -- FD
  ⟨.inc, .absoluteX, 7⟩, -- FE
  ⟨.isb, .absoluteX, 7⟩] -- FF

/-- The default opcode table, indexed by opcode byte (R94, R97, D1). -/
def opcodeTable : List OpcodeRow :=
  opcodeRow0 ++ opcodeRow1 ++ opcodeRow2 ++ opcodeRow3 ++ opcodeRow4 ++ opcodeRow5 ++ opcodeRow6 ++ opcodeRow7 ++
  opcodeRow8 ++ opcodeRow9 ++ opcodeRowA ++ opcodeRowB ++ opcodeRowC ++ opcodeRowD ++ opcodeRowE ++ opcodeRowF

/-- `OPTABLE(op)` of a machine (R7, R94): the row the configuration gives the byte, which may be absent (D1), or else
the default row. -/
def optableRow (table : List (Byte × Option OpcodeRow)) (op : Byte) : Option OpcodeRow :=
  (table.lookup op).getD opcodeTable[op.toNat]?

/-- Why the decoder rejects bytes. -/
inductive DecodeError where
  /-- There is no byte to decode. -/
  | noBytes
  /-- The table has no row for the opcode byte (R301); unreachable with the default table. -/
  | unknownOpcode (op : Byte)
  /-- The table's row for the opcode byte has no instruction rule; unreachable with the default table (log entry 25). -/
  | noRule (op : Byte)
  /-- The bytes end before the instruction does. -/
  | truncated (op : Byte)
deriving DecidableEq, Repr

/-- Decode the instruction a list of bytes begins with under an opcode table, and return the bytes after it (R90, R91,
R94, R101). -/
def decodeWith (table : List (Byte × Option OpcodeRow)) : List Byte → Except DecodeError (Instr × List Byte)
  | [] => .error .noBytes
  | op :: rest =>
    match optableRow table op with
    | none => .error (.unknownOpcode op)
    | some row =>
      match rowShape op row, rest with
      | none, _ => .error (.noRule op)
      | some (.one i), rest => .ok (i, rest)
      | some (.two f), b :: rest => .ok (f b, rest)
      | some (.unread f), b :: rest => .ok (f b, rest)
      | some (.three f), l :: h :: rest => .ok (f (wordOf h l), rest)
      | some (.two _), [] => .error (.truncated op)
      | some (.unread _), [] => .error (.truncated op)
      | some (.three _), _ => .error (.truncated op)

/-- Decode under the default table. -/
def decode (bytes : List Byte) : Except DecodeError (Instr × List Byte) := decodeWith [] bytes

/-- The decoder applied to an instruction given as the opcode table numbers its bits: bit 0 is the least significant bit
of the first byte, the second byte is bits 15 to 8, the third bits 23 to 16; bits at and above `nbits` are zero. -/
def decodeTableWord (nbits w : Nat) : Option Instr :=
  let v := w % 2 ^ nbits
  match decode [BitVec.ofNat 8 v, BitVec.ofNat 8 (v / 2 ^ 8), BitVec.ofNat 8 (v / 2 ^ 16)] with
  | .ok (i, _) => some i
  | .error _ => none

/-! ### The encoder -/

/-- The opcode byte of one mnemonic in each operand form it has (R95, R96). -/
structure Forms where
  imm : Option Byte := none
  acc : Option Byte := none
  zp  : Option Byte := none
  zpx : Option Byte := none
  zpy : Option Byte := none
  abs : Option Byte := none
  abx : Option Byte := none
  aby : Option Byte := none
  inx : Option Byte := none
  iny : Option Byte := none
deriving DecidableEq, Repr

def Forms.ofAddressing (f : Forms) : Addressing → Option Byte
  | .zp _ => f.zp
  | .zpx _ => f.zpx
  | .zpy _ => f.zpy
  | .abs _ => f.abs
  | .abx _ => f.abx
  | .aby _ => f.aby
  | .inx _ => f.inx
  | .iny _ => f.iny

def Forms.ofOperand (f : Forms) : Operand → Option Byte
  | .imm _ => f.imm
  | .acc => f.acc
  | .mem m => f.ofAddressing m

/-- The opcode byte of an instruction (R95, R96); `none` for an operand form its mnemonic does not have. -/
def opcodeOf : Instr → Option Byte
  | .lda m => Forms.ofOperand
      { imm := some 0xA9, zp := some 0xA5, zpx := some 0xB5, abs := some 0xAD, abx := some 0xBD,
        aby := some 0xB9, inx := some 0xA1, iny := some 0xB1 } m
  | .ldx m => Forms.ofOperand
      { imm := some 0xA2, zp := some 0xA6, zpy := some 0xB6, abs := some 0xAE, aby := some 0xBE } m
  | .ldy m => Forms.ofOperand
      { imm := some 0xA0, zp := some 0xA4, zpx := some 0xB4, abs := some 0xAC, abx := some 0xBC } m
  | .sta m => Forms.ofAddressing
      { zp := some 0x85, zpx := some 0x95, abs := some 0x8D, abx := some 0x9D, aby := some 0x99,
        inx := some 0x81, iny := some 0x91 } m
  | .stx m => Forms.ofAddressing
      { zp := some 0x86, zpy := some 0x96, abs := some 0x8E } m
  | .sty m => Forms.ofAddressing
      { zp := some 0x84, zpx := some 0x94, abs := some 0x8C } m
  | .tax => some 0xAA
  | .tay => some 0xA8
  | .tsx => some 0xBA
  | .txa => some 0x8A
  | .tya => some 0x98
  | .txs => some 0x9A
  | .adc m => Forms.ofOperand
      { imm := some 0x69, zp := some 0x65, zpx := some 0x75, abs := some 0x6D, abx := some 0x7D,
        aby := some 0x79, inx := some 0x61, iny := some 0x71 } m
  | .sbc m => Forms.ofOperand
      { imm := some 0xE9, zp := some 0xE5, zpx := some 0xF5, abs := some 0xED, abx := some 0xFD,
        aby := some 0xF9, inx := some 0xE1, iny := some 0xF1 } m
  | .and m => Forms.ofOperand
      { imm := some 0x29, zp := some 0x25, zpx := some 0x35, abs := some 0x2D, abx := some 0x3D,
        aby := some 0x39, inx := some 0x21, iny := some 0x31 } m
  | .ora m => Forms.ofOperand
      { imm := some 0x09, zp := some 0x05, zpx := some 0x15, abs := some 0x0D, abx := some 0x1D,
        aby := some 0x19, inx := some 0x01, iny := some 0x11 } m
  | .eor m => Forms.ofOperand
      { imm := some 0x49, zp := some 0x45, zpx := some 0x55, abs := some 0x4D, abx := some 0x5D,
        aby := some 0x59, inx := some 0x41, iny := some 0x51 } m
  | .cmp m => Forms.ofOperand
      { imm := some 0xC9, zp := some 0xC5, zpx := some 0xD5, abs := some 0xCD, abx := some 0xDD,
        aby := some 0xD9, inx := some 0xC1, iny := some 0xD1 } m
  | .cpx m => Forms.ofOperand
      { imm := some 0xE0, zp := some 0xE4, abs := some 0xEC } m
  | .cpy m => Forms.ofOperand
      { imm := some 0xC0, zp := some 0xC4, abs := some 0xCC } m
  | .bit m => Forms.ofAddressing
      { zp := some 0x24, abs := some 0x2C } m
  | .asl m => Forms.ofOperand
      { acc := some 0x0A, zp := some 0x06, zpx := some 0x16, abs := some 0x0E, abx := some 0x1E } m
  | .lsr m => Forms.ofOperand
      { acc := some 0x4A, zp := some 0x46, zpx := some 0x56, abs := some 0x4E, abx := some 0x5E } m
  | .rol m => Forms.ofOperand
      { acc := some 0x2A, zp := some 0x26, zpx := some 0x36, abs := some 0x2E, abx := some 0x3E } m
  | .ror m => Forms.ofOperand
      { acc := some 0x6A, zp := some 0x66, zpx := some 0x76, abs := some 0x6E, abx := some 0x7E } m
  | .inc m => Forms.ofAddressing
      { zp := some 0xE6, zpx := some 0xF6, abs := some 0xEE, abx := some 0xFE } m
  | .dec m => Forms.ofAddressing
      { zp := some 0xC6, zpx := some 0xD6, abs := some 0xCE, abx := some 0xDE } m
  | .inx => some 0xE8
  | .iny => some 0xC8
  | .dex => some 0xCA
  | .dey => some 0x88
  | .bcc _ => some 0x90
  | .bcs _ => some 0xB0
  | .beq _ => some 0xF0
  | .bne _ => some 0xD0
  | .bmi _ => some 0x30
  | .bpl _ => some 0x10
  | .bvc _ => some 0x50
  | .bvs _ => some 0x70
  | .jmp (.abs _) => some 0x4C
  | .jmp (.ind _) => some 0x6C
  | .jsr _ => some 0x20
  | .rts => some 0x60
  | .rti => some 0x40
  | .brk => some 0x00
  | .pha => some 0x48
  | .pla => some 0x68
  | .php => some 0x08
  | .plp => some 0x28
  | .clc => some 0x18
  | .sec => some 0x38
  | .cld => some 0xD8
  | .sed => some 0xF8
  | .cli => some 0x58
  | .sei => some 0x78
  | .clv => some 0xB8
  | .nop => some 0xEA
  | .lax m => Forms.ofAddressing
      { zp := some 0xA7, zpy := some 0xB7, abs := some 0xAF, aby := some 0xBF, inx := some 0xA3,
        iny := some 0xB3 } m
  | .sax m => Forms.ofAddressing
      { zp := some 0x87, zpy := some 0x97, abs := some 0x8F, inx := some 0x83 } m
  | .dcp m => Forms.ofAddressing
      { zp := some 0xC7, zpx := some 0xD7, abs := some 0xCF, abx := some 0xDF, aby := some 0xDB,
        inx := some 0xC3, iny := some 0xD3 } m
  | .isb m => Forms.ofAddressing
      { zp := some 0xE7, zpx := some 0xF7, abs := some 0xEF, abx := some 0xFF, aby := some 0xFB,
        inx := some 0xE3, iny := some 0xF3 } m
  | .slo m => Forms.ofAddressing
      { zp := some 0x07, zpx := some 0x17, abs := some 0x0F, abx := some 0x1F, aby := some 0x1B,
        inx := some 0x03, iny := some 0x13 } m
  | .rla m => Forms.ofAddressing
      { zp := some 0x27, zpx := some 0x37, abs := some 0x2F, abx := some 0x3F, aby := some 0x3B,
        inx := some 0x23, iny := some 0x33 } m
  | .sre m => Forms.ofAddressing
      { zp := some 0x47, zpx := some 0x57, abs := some 0x4F, abx := some 0x5F, aby := some 0x5B,
        inx := some 0x43, iny := some 0x53 } m
  | .rra m => Forms.ofAddressing
      { zp := some 0x67, zpx := some 0x77, abs := some 0x6F, abx := some 0x7F, aby := some 0x7B,
        inx := some 0x63, iny := some 0x73 } m
  | .dop op _ => some op
  | .top op _ => some op
  | .nopStar op => some op
  | .sbcStar _ => some 0xEB
  | .aac op _ => some op
  | .arr _ => some 0x6B
  | .asr _ => some 0x4B
  | .atx _ => some 0xAB
  | .axs _ => some 0xCB
  | .axa m => Forms.ofAddressing
      { aby := some 0x9F, iny := some 0x93 } m
  | .sxa _ => some 0x9E
  | .sya _ => some 0x9C
  | .xas _ => some 0x9B
  | .lar _ => some 0xBB
  | .kil op => some op
  | .xaa bytes => some bytes.1

def Addressing.bytes : Addressing → List Byte
  | .zp b | .zpx b | .zpy b | .inx b | .iny b => [b]
  | .abs w | .abx w | .aby w => wordBytes w

def Operand.bytes : Operand → List Byte
  | .imm b => [b]
  | .acc => []
  | .mem m => m.bytes

def JumpTarget.bytes : JumpTarget → List Byte
  | .abs w | .ind w => wordBytes w

/-- The bytes after the opcode (R91, R93). -/
def operandBytes : Instr → List Byte
  | .lda m | .ldx m | .ldy m | .sta m | .stx m | .sty m => m.bytes
  | .tax | .tay | .tsx | .txa | .tya | .txs => []
  | .adc m | .sbc m | .and m | .ora m | .eor m | .cmp m | .cpx m | .cpy m | .bit m | .asl m | .lsr m
  | .rol m | .ror m | .inc m | .dec m => m.bytes
  | .inx | .iny | .dex | .dey => []
  | .bcc b | .bcs b | .beq b | .bne b | .bmi b | .bpl b | .bvc b | .bvs b => [b]
  | .jmp t => t.bytes
  | .jsr w => wordBytes w
  | .rts | .rti | .brk | .pha | .pla | .php | .plp | .clc | .sec | .cld | .sed | .cli | .sei | .clv
  | .nop => []
  | .lax m | .sax m | .dcp m | .isb m | .slo m | .rla m | .sre m | .rra m => m.bytes
  | .dop _ m | .top _ m => m.bytes
  | .nopStar _ => []
  | .sbcStar b => [b]
  | .aac _ b => [b]
  | .arr b | .asr b | .atx b | .axs b => [b]
  | .axa m => m.bytes
  | .sxa w | .sya w | .xas w | .lar w => wordBytes w
  | .kil _ => []
  | .xaa bytes => [bytes.2]

/-- The bytes of a well-formed instruction (R91); no bytes for an operand form that does not exist. -/
def encode (i : Instr) : List Byte :=
  match opcodeOf i with
  | some op => op :: operandBytes i
  | none => []

end Sys2Proof
end

