-- ==== Sys2Proof/Machine/State.lean ====
section
/-! DEFINITION. The state of the machine as plain data (10_state.md R20), the reasons a step can stop (60_exceptions.md
R300), and the state right after reset (R43, R344). -/

namespace Sys2Proof.Machine

/-- Memory: (cell, byte) pairs, cells strictly rising, no byte equal to what an unlisted cell reads as (`Memory.blank`).
A cell is a RAM index `0x000` to `0x7FF` (R37) or `0x8000` plus a PRG offset (R38). -/
abbrev Memory := List Host.Cell

/-- The kind of a bus access (R302). -/
inductive BusAccess where
  | read
  | write
deriving DecidableEq, Repr

/-- The four fatal conditions with what each records (R300 to R304). -/
inductive FatalCondition where
  /-- Raised by the fetch when `OPTABLE` has no row for the opcode byte (R301). -/
  | unknownOpcode (byte : Byte) (pc : Word)
  /-- Raised by any access to `0x4000` to `0x7FFF` (R302). -/
  | unmappedAddress (addr : Word) (access : BusAccess)
  /-- Raised by any write to `0x8000` to `0xFFFF` (R303). -/
  | prgRomWrite (addr : Word)
  /-- Raised by executing `KIL` or `XAA` (R304). -/
  | kilOrUnstableOpcode (byte : Byte) (pc : Word)
deriving DecidableEq, Repr

/-- The run status (R40). -/
inductive RunStatus where
  | running
  | halted
  | faulted (c : FatalCondition)
deriving DecidableEq, Repr

/-- Why a step stops with a fault. -/
inductive Fault where
  /-- A fatal condition: the machine's run status becomes `Faulted(kind, info)` (R11, R300) and nothing else of the state
  may be read (R305). `ppuCalls` are the calls made on the PPU hook up to the fault, newest first: those that precede it in
  the order of R74 have happened (R305). Raised by the bus, the fetch, `KIL` and `XAA`. Safe: it is the stop the spec
  names. -/
  | fatal (c : FatalCondition) (ppuCalls : List PpuCall)
  /-- No step exists, because the run status is not `Running` (R40, R120). Raised by `step`. Safe: the spec gives a
  halted or faulted machine no step. -/
  | notRunning (r : RunStatus)
deriving DecidableEq, Repr

/-- Why the model gives no meaning. -/
inductive Refusal where
  /-- The instruction has no meaning in this model yet. Raised by `exec` alone. Safe. -/
  | notModelled (mnemonic : String)
  /-- The machine is configured with `UNSTABLE_STORES = refuse`, which gives this instruction no meaning (D15). Raised by
  `AXA SXA SYA XAS LAR` under that configuration only. Safe. -/
  | unstableStores (mnemonic : String)
  /-- This machine's `OPTABLE` gives the opcode byte a mnemonic and a mode that select no instruction rule (R94), so the spec
  gives the row no effect. Raised by `step`, and only under an opcode table other than the default. Safe. Log entry 25. -/
  | opcodeRow (op : Byte)
  /-- A cartridge whose PRG is neither 16,384 nor 32,768 bytes is not admitted (R38, D6). Raised by `boot`. Safe. -/
  | prgLength (bytes : Nat)
deriving DecidableEq, Repr

/-- The machine's state. The last two fields are the model's own: `cfg` is the configuration, which no step changes
(R44; log entry 1), and `ppuCalls` the calls made on the PPU hook so far, newest first (log entry 10). -/
structure State where
  /-- `x[A]`, the accumulator (R21). -/
  a : Byte
  /-- `x[X]`, index register X (R22). -/
  x : Byte
  /-- `x[Y]`, index register Y (R23). -/
  y : Byte
  /-- `x[SP]`, the stack pointer: the next free slot is `0x0100 + SP` (R24). -/
  sp : Byte
  /-- The program counter: between steps the address of the next opcode byte (R25). -/
  pc : Word
  /-- The status register `N V 1 B D I Z C`, bit 7 to bit 0 (R26). -/
  p : Byte
  /-- RAM (R37) and the cartridge's PRG bytes (R38). -/
  mem : Memory
  /-- The run status (R40). -/
  run : RunStatus
  /-- The nominal cycle accumulator (R41), which only `step` advances (R122). -/
  cycles : Nat
  /-- The configuration (R7, R44). -/
  cfg : Config
  /-- The calls made on the PPU hook, newest first. -/
  ppuCalls : List PpuCall
deriving DecidableEq, Repr

/-- The configuration of `State.reset`: the defaults of R7, and where it gives none a 16 KiB PRG and
`UNSTABLE_STORES = as_specified` (log entries 2 and 12). -/
def defaultConfig : Config :=
  { prgSize := .kib16, ppu := .null, resetPcOverride := none, brkMode := .halt, optable := [],
    unstableStores := .asSpecified }

/-- The machine right after construction and reset (R43, R344) with no byte of RAM or PRG listed. `pc` is the word at
the reset vector `0xFFFC`, whose two PRG bytes are unlisted and read `0x00` (log entries 3 and 4). -/
def State.reset : State :=
  { a := 0x00, x := 0x00, y := 0x00, sp := 0xFD, pc := 0x0000, p := 0x24, mem := [], run := .running, cycles := 0,
    cfg := defaultConfig, ppuCalls := [] }

/-- The three outcomes of an instruction or a step. -/
abbrev Result := Host.Outcome State Fault Refusal

end Sys2Proof.Machine
end

