-- ==== Sys2Proof/Machine/Flags.lean ====
section
/-! DEFINITION. The status register's bits (10_state.md R26 to R35), the arithmetic and shift functions on bytes, and
every flag computation of the instruction rules. A flag is set or cleared, never toggled (R35). -/

namespace Sys2Proof.Machine

/-! ### The bits of `P` (R26) -/

def flagC (p : Byte) : Bool := p.getLsbD 0
def flagZ (p : Byte) : Bool := p.getLsbD 1
def flagI (p : Byte) : Bool := p.getLsbD 2
def flagD (p : Byte) : Bool := p.getLsbD 3
def flagB (p : Byte) : Bool := p.getLsbD 4
def flag5 (p : Byte) : Bool := p.getLsbD 5
def flagV (p : Byte) : Bool := p.getLsbD 6
def flagN (p : Byte) : Bool := p.getLsbD 7

/-- `p` with the bit of a one-bit mask set or cleared (R35: OR to set, AND-NOT to clear). -/
def putFlag (mask p : Byte) (b : Bool) : Byte := if b then p ||| mask else p &&& ~~~mask

def putC (p : Byte) (b : Bool) : Byte := putFlag 0x01 p b
def putZ (p : Byte) (b : Bool) : Byte := putFlag 0x02 p b
def putI (p : Byte) (b : Bool) : Byte := putFlag 0x04 p b
def putD (p : Byte) (b : Bool) : Byte := putFlag 0x08 p b
def putV (p : Byte) (b : Bool) : Byte := putFlag 0x40 p b
def putN (p : Byte) (b : Bool) : Byte := putFlag 0x80 p b

/-- `setNZ(v)` (R12). -/
def setNZ (p v : Byte) : Byte := putN (putZ p (v == 0)) (v.getLsbD 7)

/-- The status byte `PHP` and the vectored `BRK` push: `P | 0x30` (R31, R222, R225). -/
def pushedStatus (p : Byte) : Byte := p ||| 0x30

/-- The status `PLP` and `RTI` load from a pulled byte: bit 5 forced to 1, `B` forced to 0 (R221, R226). -/
def pulledStatus (v : Byte) : Byte := (v ||| 0x20) &&& 0xEF

/-! ### Add, subtract, compare (R170, R171, R175) -/

/-- A carry as the integer 0 or 1 (R13). -/
def carryNat (c : Bool) : Nat := if c then 1 else 0

/-- `a + m + C` over the integers, 0 to 511 (R170). -/
def addSum (a m : Byte) (c : Bool) : Nat := a.toNat + m.toNat + carryNat c

/-- The 8-bit result of an addition (R170). -/
def addResult (a m : Byte) (c : Bool) : Byte := BitVec.ofNat 8 (addSum a m c)

/-- The carry out of bit 7: `sum > 0xFF` (R170). -/
def addCarry (a m : Byte) (c : Bool) : Bool := decide (0xFF < addSum a m c)

/-- Signed overflow: `((a ^ r) & (m ^ r) & 0x80) != 0` (R170). -/
def addOverflow (a m : Byte) (c : Bool) : Bool :=
  ((a ^^^ addResult a m c) &&& (m ^^^ addResult a m c) &&& 0x80) != 0

/-- The status after an addition: `C`, `V`, then `setNZ` (R170). -/
def addStatus (p a m : Byte) (c : Bool) : Byte :=
  setNZ (putV (putC p (addCarry a m c)) (addOverflow a m c)) (addResult a m c)

/-- The operand a subtraction adds: `M ^ 0xFF` (R171). -/
def subOperand (m : Byte) : Byte := m ^^^ 0xFF

/-- The status after a compare of a register with `m` (R175): `C` is `r >= m` unsigned, `Z` is `r == m`, `N` is bit 7 of
the wrapped difference. -/
def compareStatus (p r m : Byte) : Byte :=
  putN (putZ (putC p (decide (m.toNat ≤ r.toNat))) (r == m)) ((r - m).getLsbD 7)

/-- The status after `BIT` (R178): `Z` from `A & M`, `N` and `V` from bits 7 and 6 of `M`. -/
def bitStatus (p a m : Byte) : Byte := putV (putN (putZ p ((a &&& m) == 0)) (m.getLsbD 7)) (m.getLsbD 6)

/-! ### Shifts and rotates (R190 to R193) -/

/-- A carry as the byte 0 or 1. -/
def carryByte (c : Bool) : Byte := if c then 1 else 0

def aslResult (v : Byte) : Byte := v <<< 1
def lsrResult (v : Byte) : Byte := v >>> 1
def rolResult (v : Byte) (c : Bool) : Byte := (v <<< 1) ||| carryByte c
def rorResult (v : Byte) (c : Bool) : Byte := (v >>> 1) ||| (carryByte c <<< 7)

/-- The bit a left shift or rotate moves out: old bit 7 (R190, R192). -/
def leftOut (v : Byte) : Bool := v.getLsbD 7

/-- The bit a right shift or rotate moves out: old bit 0 (R191, R193). -/
def rightOut (v : Byte) : Bool := v.getLsbD 0

/-- The status after a shift: `C` is the bit moved out, `Z` and `N` from the result (R190 to R193). -/
def shiftStatus (p : Byte) (out : Bool) (r : Byte) : Byte := setNZ (putC p out) r

/-! ### The flags of `ARR` (R263) -/

/-- `N`, `Z` from the result, `C` = bit 6, `V` = bit 6 XOR bit 5. -/
def arrStatus (p r : Byte) : Byte :=
  putV (putC (setNZ p r) (r.getLsbD 6)) (r.getLsbD 6 ^^ r.getLsbD 5)

end Sys2Proof.Machine
end

