-- ==== Sys2Proof/Machine/Ops.lean ====
section
/-! DEFINITION. The named operations over memory and registers: the canonical memory, the bus (20_memory.md R51 to R61),
the stack (R66 to R69), the instruction fetch (40_step_and_addressing.md R120), entering and returning from the vectored
`BRK` (60_exceptions.md R311, R313), halting, and the host's construction and reset (70_reset_and_hazards.md R340 to
R344). -/

namespace Sys2Proof.Machine

/-! ### Memory -/

/-- What an unlisted cell reads as (`RAM_INIT` and the cartridge are open, D4, R38): `0x00`. Log entry 3. -/
def Memory.blank (_cell : Nat) : Byte := 0x00

/-- The byte of a cell. -/
def Memory.get : Memory → Nat → Byte
  | [], k => Memory.blank k
  | (k', v) :: rest, k => if k' = k then v else Memory.get rest k

/-- The memory without a cell's entry. -/
def Memory.erase (m : Memory) (k : Nat) : Memory := m.filter fun c => c.1 != k

/-- The memory with an entry put before the first entry of a higher cell. -/
def Memory.insert : Memory → Nat → Byte → Memory
  | [], k, v => [(k, v)]
  | c :: rest, k, v => if k < c.1 then (k, v) :: c :: rest else c :: Memory.insert rest k v

/-- Write a cell, keeping the canonical form: writing what an unlisted cell reads as removes the entry. -/
def Memory.set (m : Memory) (k : Nat) (v : Byte) : Memory :=
  if v = Memory.blank k then Memory.erase m k else Memory.insert (Memory.erase m k) k v

/-- The canonical form: cells strictly rising, no byte equal to what an unlisted cell reads as. -/
abbrev Memory.wf (m : Memory) : Prop :=
  m.Pairwise (fun c d => c.1 < d.1) ∧ ∀ c ∈ m, c.2 ≠ Memory.blank c.1

/-- A run of bytes from a first cell, as the entries of a memory in canonical form. -/
def Memory.ofBytes : Nat → List Byte → Memory
  | _, [] => []
  | k, v :: vs => if v = Memory.blank k then Memory.ofBytes (k + 1) vs else (k, v) :: Memory.ofBytes (k + 1) vs

/-! ### Address decode (R51) -/

/-- What the bus finds at an address. -/
inductive Window where
  | ram (cell : Nat)
  | ppu (reg : BitVec 3)
  | unmapped
  | prg (cell : Nat)
deriving DecidableEq, Repr

/-- The length of PRG in bytes (R38). -/
def prgLength : PrgSize → Nat
  | .kib16 => 0x4000
  | .kib32 => 0x8000

/-- The PRG offset of an address in `0x8000` to `0xFFFF` (R56): mirrored for 16 KiB, direct for 32 KiB. -/
def prgOffset (sz : PrgSize) (a : Word) : Nat :=
  match sz with
  | .kib16 => a.toNat % 0x4000
  | .kib32 => a.toNat - 0x8000

/-- The memory cell of a PRG address. -/
def prgCell (sz : PrgSize) (a : Word) : Nat := 0x8000 + prgOffset sz a

/-- The address decode of the bus (R51 to R57). -/
def window (sz : PrgSize) (a : Word) : Window :=
  if a.toNat ≤ 0x1FFF then .ram (a &&& 0x07FF).toNat
  else if a.toNat ≤ 0x3FFF then .ppu (a.setWidth 3)
  else if a.toNat ≤ 0x7FFF then .unmapped
  else .prg (prgCell sz a)

/-- The memory cell behind an address: RAM through its mirrors (R52) or PRG (R56); none in the PPU and unmapped
windows. -/
def cellOf (sz : PrgSize) (a : Word) : Option Nat :=
  match window sz a with
  | .ram k => some k
  | .prg k => some k
  | .ppu _ => none
  | .unmapped => none

/-- The byte stored behind an address, looked at without a bus access; none where no memory stands behind it. -/
def storedByte (s : State) (a : Word) : Option Byte := (cellOf s.cfg.prgSize a).map s.mem.get

/-! ### The bus operations (R58 to R61) -/

/-- The result of bus accesses: a value and the state after, or the fatal condition raised (R11) with the calls made
on the PPU hook up to it, which have happened (R305). -/
inductive Access (α : Type) where
  | ok (v : α) (s : State)
  | stop (c : FatalCondition) (ppuCalls : List PpuCall)

/-- Do one access, then another; the first condition raised ends both (R11, R309). -/
def Access.bind {α β : Type} (r : Access α) (f : α → State → Access β) : Access β :=
  match r with
  | .ok v s => f v s
  | .stop c calls => .stop c calls

/-- End an instruction with its accesses done: the state it leaves, or the fault. -/
def Access.conclude {α : Type} (r : Access α) (f : α → State → State) : Result :=
  match r with
  | .ok v s => .next (f v s)
  | .stop c calls => .fault (.fatal c calls)

/-- What the PPU hook answers to a read (R53): 0 from the null hook, a free value from one outside the block. -/
def ppuValue (s : State) (reg : BitVec 3) : Byte :=
  match s.cfg.ppu with
  | .null => 0x00
  | .external => Config.ppuHookValue s.ppuCalls reg

/-- The state after a call of the PPU hook: nothing of the block changes (R54); the call is recorded. -/
def logPpu (s : State) (c : PpuCall) : State := { s with ppuCalls := c :: s.ppuCalls }

/-- `MemRead(addr, 1)` (R58). -/
def read8 (a : Word) (s : State) : Access Byte :=
  match window s.cfg.prgSize a with
  | .ram k => .ok (s.mem.get k) s
  | .ppu reg => .ok (ppuValue s reg) (logPpu s (.read reg))
  | .unmapped => .stop (.unmappedAddress a .read) s.ppuCalls
  | .prg k => .ok (s.mem.get k) s

/-- `MemWrite(addr, 1, v)` (R59). -/
def write8 (a : Word) (v : Byte) (s : State) : Access Unit :=
  match window s.cfg.prgSize a with
  | .ram k => .ok () { s with mem := s.mem.set k v }
  | .ppu reg => .ok () (logPpu s (.write reg v))
  | .unmapped => .stop (.unmappedAddress a .write) s.ppuCalls
  | .prg _ => .stop (.prgRomWrite a) s.ppuCalls

/-- `MemRead(addr, 2)` (R60): low byte first, `addr + 1` wrapping only at the top of the space. -/
def read16 (a : Word) (s : State) : Access Word :=
  (read8 a s).bind fun l s => (read8 (a + 1) s).bind fun h s => .ok (wordOf h l) s

/-- `MemWrite(addr, 2, v)` (R61). No instruction uses it; the bus offers it. -/
def write16 (a : Word) (w : Word) (s : State) : Access Unit :=
  (write8 a (lo w) s).bind fun _ s => write8 (a + 1) (hi w) s

/-! ### The stack (R66 to R69) -/

/-- The RAM cell of the stack slot `0x0100 + SP` (R24, R52). -/
def stackCell (sp : Byte) : Nat := 0x100 + sp.toNat

/-- `push8` (R66). -/
def push8 (v : Byte) (s : State) : State := { s with mem := s.mem.set (stackCell s.sp) v, sp := s.sp - 1 }

/-- The byte `pull8` returns (R67). -/
def pulledByte (s : State) : Byte := s.mem.get (stackCell (s.sp + 1))

/-- The state after `pull8` (R67). -/
def pull8 (s : State) : State := { s with sp := s.sp + 1 }

/-- `push16` (R68): the high byte first. -/
def push16 (w : Word) (s : State) : State := push8 (lo w) (push8 (hi w) s)

/-- The word `pull16` returns (R69): the low byte first. -/
def pulledWord (s : State) : Word := wordOf (pulledByte (pull8 s)) (pulledByte s)

/-- The state after `pull16` (R69). -/
def pull16 (s : State) : State := pull8 (pull8 s)

/-! ### Ending an instruction -/

/-- The common advance (R121). -/
def advance (m : Mode) (s : State) : State := { s with pc := s.pc + BitVec.ofNat 16 m.size }

/-- An instruction that moves `pc` itself (R121). -/
def jumpTo (target : Word) (s : State) : State := { s with pc := target }

/-- What `cycles` holds after a completed step of an opcode with `n` base cycles (R122); after a halting step it is open
(D8): a free value, log entry 5. -/
def cyclesAfter (n : Nat) (s : State) : Nat :=
  match s.run with
  | .running => s.cycles + n
  | .halted => Config.cyclesAfterHalt s.cycles
  | .faulted _ => Config.cyclesAfterHalt s.cycles

/-- The last action of a step (R120): accumulate the opcode's base cycles. -/
def accumulate (n : Nat) (r : Result) : Result :=
  match r with
  | .next s => .next { s with cycles := cyclesAfter n s }
  | .fault f => .fault f
  | .refused f => .refused f

/-! ### BRK and RTI -/

/-- A vector: the word at an address of the PRG window (R70, R321). -/
def vectorAt (s : State) (a : Word) : Word :=
  wordOf (s.mem.get (prgCell s.cfg.prgSize (a + 1))) (s.mem.get (prgCell s.cfg.prgSize a))

/-- Taking the one exception of the block, the vectored `BRK` (R222, R311): push the return address `pc0 + 2` and the
status image, set `I`, and go to the address at `0xFFFE`. `a`, `x`, `y` and `D` are not touched. -/
def takeBreak (s : State) : State :=
  let t := push8 (pushedStatus s.p) (push16 (s.pc + 2) s)
  { t with p := putI t.p true, pc := vectorAt t 0xFFFE }

/-- The return from it (R221, R313): status from the stack, then `pc`, with no adjustment. -/
def returnFromInterrupt (s : State) : State :=
  let t := pull8 s
  { pull16 t with p := pulledStatus (pulledByte s), pc := pulledWord t }

/-- `BRK` in `halt` mode (R222, R310): the run ends, nothing else changes. -/
def haltRun (s : State) : State := { s with run := .halted }

/-! ### Fetching an instruction (R120, R73) -/

/-- A byte of the instruction that the step passes over without reading it: the byte stored there, if any. -/
def skippedByte (s : State) (a : Word) : Byte := (storedByte s a).getD 0

/-- What the fetch finds. -/
inductive Fetched where
  /-- An instruction with the base cycles of its row. -/
  | instr (i : Instr) (cycles : Nat)
  /-- A row of this machine's `OPTABLE` without an instruction rule (R94; log entry 25). -/
  | noRule (op : Byte)
deriving DecidableEq, Repr

/-- Read the operand bytes of a row's instruction, in address order (R74). -/
def readOperandBytes (shape : Shape) (s : State) : Access Instr :=
  match shape with
  | .one i => .ok i s
  | .two f => (read8 (s.pc + 1) s).bind fun b s => .ok (f b) s
  | .unread f => .ok (f (skippedByte s (s.pc + 1))) s
  | .three f => (read16 (s.pc + 1) s).bind fun w s => .ok (f w) s

/-- Fetch and decode the instruction at `pc`: the opcode byte, then the operand bytes its row reads. A byte with no
row in this machine's `OPTABLE` raises `UnknownOpcode` (R301) before any operand byte is read. -/
def fetch (s : State) : Access Fetched :=
  (read8 s.pc s).bind fun op s =>
    match optableRow s.cfg.optable op with
    | none => .stop (.unknownOpcode op s.pc) s.ppuCalls
    | some row =>
      match rowShape op row with
      | none => .ok (.noRule op) s
      | some shape => (readOperandBytes shape s).bind fun i s => .ok (.instr i row.cycles) s

/-! ### The host's actions -/

/-- The reset sequence (R340 to R342): the five registers, `pc` from the vector or the override, and the run status;
RAM, PRG and the configuration stay. `cycles` after it is open (D8): a free value, log entry 5. -/
def resetSequence (s : State) : State :=
  { s with
    a := 0x00, x := 0x00, y := 0x00, p := 0x24, sp := 0xFD
    pc := match s.cfg.resetPcOverride with
      | some a => a
      | none => vectorAt s 0xFFFC
    run := .running
    cycles := Config.cyclesAfterReset s.cycles }

/-- The admitted length of a cartridge's PRG (R38, D6). -/
def prgSizeOf (prg : List Byte) : Option PrgSize :=
  if prg.length = 0x4000 then some .kib16 else if prg.length = 0x8000 then some .kib32 else none

/-- Construction followed by one reset (R344, R345): the initial state of a run with a cartridge `prg`, RAM contents
`ramInit` (its first 2,048 bytes) and a configuration whose `prgSize` is the cartridge's. -/
def boot (cfg : Config) (prg ramInit : List Byte) : Result :=
  match prgSizeOf prg with
  | none => .refused (.prgLength prg.length)
  | some sz =>
    let built : State :=
      { State.reset with
        cfg := { cfg with prgSize := sz }
        mem := Memory.ofBytes 0 (ramInit.take 0x800) ++ Memory.ofBytes 0x8000 prg }
    .next { resetSequence built with cycles := 0 }

/-- Put a byte behind an address as the host does before a run: into its RAM or PRG cell. -/
def placeByte (a : Word) (v : Byte) (s : State) : State :=
  match cellOf s.cfg.prgSize a with
  | some k => { s with mem := s.mem.set k v }
  | none => s

/-- Put the instruction given by `opcode_table.json`'s numbering of bits (the bits at and above `nbits` zero) at `pc`,
with the machine running. -/
def placeInstruction (nbits w : Nat) (s : State) : State :=
  let v := w % 2 ^ nbits
  let t := placeByte s.pc (BitVec.ofNat 8 v)
    (placeByte (s.pc + 1) (BitVec.ofNat 8 (v / 2 ^ 8)) (placeByte (s.pc + 2) (BitVec.ofNat 8 (v / 2 ^ 16)) s))
  { t with run := .running }

end Sys2Proof.Machine
end

