-- ==== Sys2Proof/Machine/Operands.lean ====
section
/-! DEFINITION. Addressing-mode resolution (40_step_and_addressing.md R124 to R135) and the access classes an
instruction uses its operand in (R136). The operand bytes are already in the instruction; the pointer bytes of
IndirectX and IndirectY come from the zero page, which is RAM, so they never fault and have no side effect (R134):
resolution of a data operand is a plain function of the state. -/

namespace Sys2Proof.Machine

/-- A byte of the zero page (R52). -/
def zeroPageByte (s : State) (b : Byte) : Byte := s.mem.get b.toNat

/-- The word at a zero-page pointer, the high byte wrapping within the page (R134, R135). -/
def zeroPageWord (s : State) (b : Byte) : Word := wordOf (zeroPageByte s (b + 1)) (zeroPageByte s b)

/-- The address before the index of an indexed absolute or IndirectY operand (`base`, R131, R132, R135), and the address
itself for the other modes. -/
def operandBase (m : Addressing) (s : State) : Word :=
  match m with
  | .zp b => zext16 b
  | .zpx b => zext16 (b + s.x)
  | .zpy b => zext16 (b + s.y)
  | .abs w => w
  | .abx w => w
  | .aby w => w
  | .inx b => zeroPageWord s (b + s.x)
  | .iny b => zeroPageWord s b

/-- The operand address `ea` (R127 to R132, R134, R135). -/
def operandAddress (m : Addressing) (s : State) : Word :=
  match m with
  | .zp _ | .zpx _ | .zpy _ | .abs _ | .inx _ => operandBase m s
  | .abx _ => operandBase m s + zext16 s.x
  | .aby _ | .iny _ => operandBase m s + zext16 s.y

/-- The address of the high byte of an Indirect pointer: the same page (R133). -/
def indirectHighAddress (ptr : Word) : Word := (ptr &&& 0xFF00) ||| ((ptr + 1) &&& 0x00FF)

/-- The target of `JMP` (R130, R133): the operand, or the word its pointer names. -/
def jumpTarget (t : JumpTarget) (s : State) : Access Word :=
  match t with
  | .abs w => .ok w s
  | .ind ptr =>
    (read8 ptr s).bind fun l s => (read8 (indirectHighAddress ptr) s).bind fun h s => .ok (wordOf h l) s

/-- The target of a branch at `pc0` (R126). -/
def branchTarget (pc0 : Word) (off : Byte) : Word := pc0 + 2 + sext16 off

/-- The operand value `M`: the immediate byte, which the fetch has read (R125), the accumulator (R124), or the byte at
the operand address. -/
def loadOperand (m : Operand) (s : State) : Access Byte :=
  match m with
  | .imm b => .ok b s
  | .acc => .ok s.a s
  | .mem ad => read8 (operandAddress ad s) s

/-! ### Access classes (R136) -/

/-- Read class: read `M` once, let the instruction use it, advance. -/
def readClass (m : Operand) (use : Byte → State → State) (s : State) : Result :=
  (loadOperand m s).conclude fun v s => advance m.mode (use v s)

/-- Store class: write `v` once at the operand address, advance. -/
def storeClass (m : Addressing) (v : Byte) (s : State) : Result :=
  (write8 (operandAddress m s) v s).conclude fun _ s => advance m.mode s

/-- Read-modify-write class: one read of `M`, one write of `g M` to the same address, then the registers and flags
(R136, R274). -/
def modifyClass (m : Addressing) (g : Byte → Byte) (use : Byte → State → State) (s : State) : Result :=
  ((read8 (operandAddress m s) s).bind fun v t =>
    (write8 (operandAddress m s) (g v) t).bind fun _ t => .ok v t).conclude
      fun v t => advance m.mode (use v t)

/-- A shift or rotate: on the accumulator in Accumulator mode, else read-modify-write (43_shift_incdec.md). An Immediate
operand, which no shift has, would be read and not written back. -/
def shiftClass (m : Operand) (g : Byte → Byte) (out : Byte → Bool) (s : State) : Result :=
  match m with
  | .acc =>
    .next (advance .accumulator { s with a := g s.a, p := shiftStatus s.p (out s.a) (g s.a) })
  | .imm b => .next (advance .immediate { s with p := shiftStatus s.p (out b) (g b) })
  | .mem ad => modifyClass ad g (fun v t => { t with p := shiftStatus t.p (out v) (g v) }) s

/-- An instruction that touches no memory operand: change registers or flags, advance by one byte. -/
def impliedClass (s : State) : Result := .next (advance .implied s)

/-- A branch (R235): to the target when the condition holds, else the common advance. -/
def branchClass (cond : Bool) (off : Byte) (s : State) : Result :=
  .next (if cond then jumpTo (branchTarget s.pc off) s else advance .relative s)

/-- `H1 = (base[15:8] + 1) mod 256` of the unstable stores (45_undocumented.md, section 4). -/
def highPlusOne (m : Addressing) (s : State) : Byte := hi (operandBase m s) + 1

/-- The five unstable instructions have their meaning, or under `UNSTABLE_STORES = refuse` none (D15). -/
def unstableClass (mnemonic : String) (meaning : Result) (s : State) : Result :=
  match s.cfg.unstableStores with
  | .asSpecified => meaning
  | .refuse => .refused (.unstableStores mnemonic)

end Sys2Proof.Machine
end

