-- ==== Sys2Proof/Machine/Arithmetic.lean ====
section
/-! DEFINITION. Add, subtract, logic, compares and bit test (42_arithmetic_logic.md R170 to R178). `P.D` is never read
(R180). -/

namespace Sys2Proof.Machine

/-- Add a byte to the accumulator with a carry in (R170). -/
def addToA (m : Byte) (c : Bool) (s : State) : State :=
  { s with a := addResult s.a m c, p := addStatus s.p s.a m c }

/-- Subtract a byte from the accumulator: add its complement with the carry in `C` (R171). -/
def subFromA (m : Byte) (s : State) : State := addToA (subOperand m) (flagC s.p) s

/-- R170. -/
def execAdc (m : Operand) (s : State) : Result := readClass m (fun v t => addToA v (flagC t.p) t) s

/-- R171. -/
def execSbc (m : Operand) (s : State) : Result := readClass m subFromA s

/-- R172. -/
def execAnd (m : Operand) (s : State) : Result :=
  readClass m (fun v t => { t with a := t.a &&& v, p := setNZ t.p (t.a &&& v) }) s

/-- R173. -/
def execOra (m : Operand) (s : State) : Result :=
  readClass m (fun v t => { t with a := t.a ||| v, p := setNZ t.p (t.a ||| v) }) s

/-- R174. -/
def execEor (m : Operand) (s : State) : Result :=
  readClass m (fun v t => { t with a := t.a ^^^ v, p := setNZ t.p (t.a ^^^ v) }) s

/-- R175. -/
def execCmp (m : Operand) (s : State) : Result :=
  readClass m (fun v t => { t with p := compareStatus t.p t.a v }) s

/-- R176. -/
def execCpx (m : Operand) (s : State) : Result :=
  readClass m (fun v t => { t with p := compareStatus t.p t.x v }) s

/-- R177. -/
def execCpy (m : Operand) (s : State) : Result :=
  readClass m (fun v t => { t with p := compareStatus t.p t.y v }) s

/-- R178. -/
def execBit (m : Addressing) (s : State) : Result :=
  readClass (.mem m) (fun v t => { t with p := bitStatus t.p t.a v }) s

end Sys2Proof.Machine
end

