-- ==== Sys2Proof/Machine/Control.lean ====
section
/-! DEFINITION. Branches, jumps, subroutines, returns and `BRK` (44_control_stack_flags.md R210 to R222, R235). -/

namespace Sys2Proof.Machine

/-- R210. -/
def execBcc (off : Byte) (s : State) : Result := branchClass (!flagC s.p) off s

/-- R211. -/
def execBcs (off : Byte) (s : State) : Result := branchClass (flagC s.p) off s

/-- R212. -/
def execBeq (off : Byte) (s : State) : Result := branchClass (flagZ s.p) off s

/-- R213. -/
def execBne (off : Byte) (s : State) : Result := branchClass (!flagZ s.p) off s

/-- R214. -/
def execBmi (off : Byte) (s : State) : Result := branchClass (flagN s.p) off s

/-- R215. -/
def execBpl (off : Byte) (s : State) : Result := branchClass (!flagN s.p) off s

/-- R216. -/
def execBvc (off : Byte) (s : State) : Result := branchClass (!flagV s.p) off s

/-- R217. -/
def execBvs (off : Byte) (s : State) : Result := branchClass (flagV s.p) off s

/-- R218. -/
def execJmp (t : JumpTarget) (s : State) : Result :=
  (jumpTarget t s).conclude jumpTo

/-- R219: the address of the last byte of the instruction is pushed. -/
def execJsr (w : Word) (s : State) : Result := .next (jumpTo w (push16 (s.pc + 2) s))

/-- R220. -/
def execRts (s : State) : Result := .next (jumpTo (pulledWord s + 1) (pull16 s))

/-- R221. -/
def execRti (s : State) : Result := .next (returnFromInterrupt s)

/-- R222: halt the run, or in `vectored` mode take the exception. -/
def execBrk (s : State) : Result :=
  match s.cfg.brkMode with
  | .halt => .next (haltRun s)
  | .vectored => .next (takeBreak s)

end Sys2Proof.Machine
end

