-- ==== Sys2Proof/Machine/LoadStore.lean ====
section
/-! DEFINITION. Loads, stores and register transfers (41_load_store_transfer.md R150 to R161). -/

namespace Sys2Proof.Machine

/-- R150. -/
def execLda (m : Operand) (s : State) : Result :=
  readClass m (fun v t => { t with a := v, p := setNZ t.p v }) s

/-- R151. -/
def execLdx (m : Operand) (s : State) : Result :=
  readClass m (fun v t => { t with x := v, p := setNZ t.p v }) s

/-- R152. -/
def execLdy (m : Operand) (s : State) : Result :=
  readClass m (fun v t => { t with y := v, p := setNZ t.p v }) s

/-- R153. -/
def execSta (m : Addressing) (s : State) : Result := storeClass m s.a s

/-- R154. -/
def execStx (m : Addressing) (s : State) : Result := storeClass m s.x s

/-- R155. -/
def execSty (m : Addressing) (s : State) : Result := storeClass m s.y s

/-- R156. -/
def execTax (s : State) : Result := impliedClass { s with x := s.a, p := setNZ s.p s.a }

/-- R157. -/
def execTay (s : State) : Result := impliedClass { s with y := s.a, p := setNZ s.p s.a }

/-- R158. -/
def execTsx (s : State) : Result := impliedClass { s with x := s.sp, p := setNZ s.p s.sp }

/-- R159. -/
def execTxa (s : State) : Result := impliedClass { s with a := s.x, p := setNZ s.p s.x }

/-- R160. -/
def execTya (s : State) : Result := impliedClass { s with a := s.y, p := setNZ s.p s.y }

/-- R161: the one transfer that writes no flag. -/
def execTxs (s : State) : Result := impliedClass { s with sp := s.x }

end Sys2Proof.Machine
end

