-- ==== Sys2Proof/Machine/Shift.lean ====
section
/-! DEFINITION. Shifts, rotates, increments and decrements (43_shift_incdec.md R190 to R199). -/

namespace Sys2Proof.Machine

/-- R190. -/
def execAsl (m : Operand) (s : State) : Result := shiftClass m aslResult leftOut s

/-- R191. -/
def execLsr (m : Operand) (s : State) : Result := shiftClass m lsrResult rightOut s

/-- R192: the carry before the instruction enters at bit 0. -/
def execRol (m : Operand) (s : State) : Result := shiftClass m (fun v => rolResult v (flagC s.p)) leftOut s

/-- R193: the carry before the instruction enters at bit 7. -/
def execRor (m : Operand) (s : State) : Result := shiftClass m (fun v => rorResult v (flagC s.p)) rightOut s

/-- R194. -/
def execInc (m : Addressing) (s : State) : Result :=
  modifyClass m (fun v => v + 1) (fun v t => { t with p := setNZ t.p (v + 1) }) s

/-- R195. -/
def execDec (m : Addressing) (s : State) : Result :=
  modifyClass m (fun v => v - 1) (fun v t => { t with p := setNZ t.p (v - 1) }) s

/-- R196. -/
def execInx (s : State) : Result := impliedClass { s with x := s.x + 1, p := setNZ s.p (s.x + 1) }

/-- R197. -/
def execIny (s : State) : Result := impliedClass { s with y := s.y + 1, p := setNZ s.p (s.y + 1) }

/-- R198. -/
def execDex (s : State) : Result := impliedClass { s with x := s.x - 1, p := setNZ s.p (s.x - 1) }

/-- R199. -/
def execDey (s : State) : Result := impliedClass { s with y := s.y - 1, p := setNZ s.p (s.y - 1) }

end Sys2Proof.Machine
end

