-- ==== Sys2Proof/Machine/StackFlags.lean ====
section
/-! DEFINITION. Stack and flag instructions and `NOP` (44_control_stack_flags.md R223 to R234). -/

namespace Sys2Proof.Machine

/-- R223. -/
def execPha (s : State) : Result := impliedClass (push8 s.a s)

/-- R224. -/
def execPla (s : State) : Result :=
  impliedClass { pull8 s with a := pulledByte s, p := setNZ s.p (pulledByte s) }

/-- R225: only the pushed image has bits 5 and 4 set. -/
def execPhp (s : State) : Result := impliedClass (push8 (pushedStatus s.p) s)

/-- R226. -/
def execPlp (s : State) : Result := impliedClass { pull8 s with p := pulledStatus (pulledByte s) }

/-- R227. -/
def execClc (s : State) : Result := impliedClass { s with p := putC s.p false }

/-- R228. -/
def execSec (s : State) : Result := impliedClass { s with p := putC s.p true }

/-- R229. -/
def execCld (s : State) : Result := impliedClass { s with p := putD s.p false }

/-- R230. -/
def execSed (s : State) : Result := impliedClass { s with p := putD s.p true }

/-- R231. -/
def execCli (s : State) : Result := impliedClass { s with p := putI s.p false }

/-- R232. -/
def execSei (s : State) : Result := impliedClass { s with p := putI s.p true }

/-- R233. -/
def execClv (s : State) : Result := impliedClass { s with p := putV s.p false }

/-- R234. -/
def execNop (s : State) : Result := impliedClass s

end Sys2Proof.Machine
end

