-- ==== Sys2Proof/Machine/Undocumented.lean ====
section
/-! DEFINITION. The undocumented instructions (45_undocumented.md R250 to R274). The compositions `LAX SAX DCP ISB SLO
RLA SRE RRA` and the no-operation forms are the source's; `AAC ARR ASR ATX AXS AXA SXA SYA XAS LAR` follow the rules
the spec writes from general knowledge (G6 to G15): log entry 13. -/

namespace Sys2Proof.Machine

/-- R250. -/
def execLax (m : Addressing) (s : State) : Result :=
  readClass (.mem m) (fun v t => { t with a := v, x := v, p := setNZ t.p v }) s

/-- R251: no flags. -/
def execSax (m : Addressing) (s : State) : Result := storeClass m (s.a &&& s.x) s

/-- R252. -/
def execDcp (m : Addressing) (s : State) : Result :=
  modifyClass m (fun v => v - 1) (fun v t => { t with p := compareStatus t.p t.a (v - 1) }) s

/-- R253. -/
def execIsb (m : Addressing) (s : State) : Result :=
  modifyClass m (fun v => v + 1) (fun v t => subFromA (v + 1) t) s

/-- The second half of `SLO`, `RLA` and `SRE`: the accumulator takes `r`, `C` is the bit shifted out (R274). -/
def logicAfterShift (out : Bool) (r : Byte) (s : State) : State := { s with a := r, p := shiftStatus s.p out r }

/-- R254. -/
def execSlo (m : Addressing) (s : State) : Result :=
  modifyClass m aslResult (fun v t => logicAfterShift (leftOut v) (t.a ||| aslResult v) t) s

/-- R255. -/
def execRla (m : Addressing) (s : State) : Result :=
  modifyClass m (fun v => rolResult v (flagC s.p))
    (fun v t => logicAfterShift (leftOut v) (t.a &&& rolResult v (flagC s.p)) t) s

/-- R256. -/
def execSre (m : Addressing) (s : State) : Result :=
  modifyClass m lsrResult (fun v t => logicAfterShift (rightOut v) (t.a ^^^ lsrResult v) t) s

/-- R257: the carry of the addition is the bit rotated out. -/
def execRra (m : Addressing) (s : State) : Result :=
  modifyClass m (fun v => rorResult v (flagC s.p))
    (fun v t => addToA (rorResult v (flagC s.p)) (rightOut v) t) s

/-- R258: the operand address is not accessed. -/
def execDop (_op : Byte) (m : Operand) (s : State) : Result := .next (advance m.mode s)

/-- R259: the operand address is not accessed. -/
def execTop (_op : Byte) (m : Addressing) (s : State) : Result := .next (advance m.mode s)

/-- R260. -/
def execNopStar (_op : Byte) (s : State) : Result := impliedClass s

/-- R261: exactly `SBC` Immediate. -/
def execSbcStar (b : Byte) (s : State) : Result := readClass (.imm b) subFromA s

/-- R262. -/
def execAac (_op : Byte) (b : Byte) (s : State) : Result :=
  readClass (.imm b)
    (fun v t => { t with a := t.a &&& v, p := putC (setNZ t.p (t.a &&& v)) ((t.a &&& v).getLsbD 7) }) s

/-- R263. -/
def execArr (b : Byte) (s : State) : Result :=
  readClass (.imm b)
    (fun v t =>
      let r := rorResult (t.a &&& v) (flagC t.p)
      { t with a := r, p := arrStatus t.p r }) s

/-- R264. -/
def execAsr (b : Byte) (s : State) : Result :=
  readClass (.imm b)
    (fun v t => { t with
      a := lsrResult (t.a &&& v)
      p := shiftStatus t.p (rightOut (t.a &&& v)) (lsrResult (t.a &&& v)) }) s

/-- R265: `ATX_MAGIC` is a free value. -/
def execAtx (b : Byte) (s : State) : Result :=
  readClass (.imm b)
    (fun v t =>
      let r := (t.a ||| Config.atxMagic) &&& v
      { t with a := r, x := r, p := setNZ t.p r }) s

/-- R266: `C` as a compare of `A & X` with `M`; `Z` and `N` from the new `X`. -/
def execAxs (b : Byte) (s : State) : Result :=
  readClass (.imm b)
    (fun v t => { t with x := (t.a &&& t.x) - v, p := compareStatus t.p (t.a &&& t.x) v }) s

/-- R267. -/
def execAxa (m : Addressing) (s : State) : Result :=
  unstableClass "AXA" (storeClass m (s.a &&& s.x &&& highPlusOne m s) s) s

/-- R268. -/
def execSxa (w : Word) (s : State) : Result :=
  unstableClass "SXA" (storeClass (.aby w) (s.x &&& highPlusOne (.aby w) s) s) s

/-- R269. -/
def execSya (w : Word) (s : State) : Result :=
  unstableClass "SYA" (storeClass (.abx w) (s.y &&& highPlusOne (.abx w) s) s) s

/-- R270: `SP` is written first, and the store uses it. -/
def execXas (w : Word) (s : State) : Result :=
  let t : State := { s with sp := s.a &&& s.x }
  unstableClass "XAS" (storeClass (.aby w) (t.sp &&& highPlusOne (.aby w) s) t) s

/-- R271. -/
def execLar (w : Word) (s : State) : Result :=
  unstableClass "LAR"
    (readClass (.mem (.aby w))
      (fun v t =>
        let r := v &&& t.sp
        { t with a := r, x := r, sp := r, p := setNZ t.p r }) s) s

/-- R272: always fatal; nothing of the instruction is executed (R304). -/
def execKil (op : Byte) (s : State) : Result := .fault (.fatal (.kilOrUnstableOpcode op s.pc) s.ppuCalls)

/-- R273: always fatal, as `KIL`; its operand byte plays no part. -/
def execXaa (bytes : Byte × Byte) (s : State) : Result :=
  .fault (.fatal (.kilOrUnstableOpcode bytes.1 s.pc) s.ppuCalls)

end Sys2Proof.Machine
end

