-- ==== Sys2Proof/Machine/Step.lean ====
section
/-! DEFINITION. One step (40_step_and_addressing.md R120), and how the host puts an instruction where the next step
fetches it. -/

namespace Sys2Proof.Machine

/-- One step runs exactly one instruction: it exists only when the run status is `Running`; it fetches and decodes the
instruction at `pc`, executes it and accumulates the cycles of its row (R120). A state that is halted or faulted has no
step (R40). -/
def step (s : State) : Host.Outcome State Fault Refusal :=
  match s.run with
  | .running =>
    match fetch s with
    | .ok (.instr i n) t => accumulate n (exec i t)
    | .ok (.noRule op) _ => .refused (.opcodeRow op)
    | .stop c calls => .fault (.fatal c calls)
  | .halted => .fault (.notRunning .halted)
  | .faulted c => .fault (.notRunning (.faulted c))

/-- `s` with the instruction that `opcode_table.json`'s numbering of bits gives as `w`, stored at `pc`, where the next
step fetches it, and the machine running; it stands for the host loading a program (log entry 4). A byte whose address
has no memory behind it is not stored. -/
def State.withFetchWord (s : State) (nbits w : Nat) : State := placeInstruction nbits w s

end Sys2Proof.Machine
end

