-- ==== Sys2Proof/Safety.lean ====
section
/-! DEFINITION. The terms claims use: the ranges of the address space, the invariant of the machine, which
instructions use a data operand in which class (40_step_and_addressing.md R136), which instructions write a register,
a flag or memory (the "Written by" lists of 10_state.md R21 to R34), and what it means that an instruction completes.
-/

namespace Sys2Proof.Machine

/-! ### Ranges of the address space (R51) -/

abbrev InRam (a : Word) : Prop := a.toNat ≤ 0x1FFF
abbrev InPpu (a : Word) : Prop := 0x2000 ≤ a.toNat ∧ a.toNat ≤ 0x3FFF
abbrev InUnmapped (a : Word) : Prop := 0x4000 ≤ a.toNat ∧ a.toNat ≤ 0x7FFF
abbrev InPrg (a : Word) : Prop := 0x8000 ≤ a.toNat

/-! ### The invariant -/

/-- Bit 5 of the status register is 1 and `B` is 0 (R35). -/
abbrev StatusOk (p : Byte) : Prop := flag5 p = true ∧ flagB p = false

/-- Every listed cell is a RAM index (R37) or a byte of the cartridge (R38). -/
abbrev Placed (sz : PrgSize) (m : Memory) : Prop :=
  ∀ c ∈ m, c.1 < 0x800 ∨ (0x8000 ≤ c.1 ∧ c.1 < 0x8000 + prgLength sz)

/-- What holds in every state a run reaches: memory is canonical and lists only cells that exist, and the status
register is as R35 says. -/
structure Inv (s : State) : Prop where
  wf     : s.mem.wf
  placed : Placed s.cfg.prgSize s.mem
  status : StatusOk s.p

/-! ### Completion -/

/-- Executing `i` in `s` answers the next state `t`. The cycles are not `exec`'s: `step` adds them after it (R120). -/
abbrev Leaves (i : Instr) (s t : State) : Prop := exec i s = .next t

/-- The step at `s` is the execution of `i` in `u`: the same stop, or the same next state but for what `cycles` holds,
of which no claim may speak (D8). -/
def StepsAs (s : State) (i : Instr) (u : State) : Prop :=
  (∀ t, exec i u = .next t → ∃ c, step s = .next { t with cycles := c }) ∧
  (∀ f, exec i u = .fault f → step s = .fault f) ∧
  (∀ r, exec i u = .refused r → step s = .refused r)

/-- How many operand bytes the fetch reads for a row: those of its mode (R92), none for `DOP` Immediate (R258), none for
`KIL` and `XAA`, which are raised before their mode is looked at (R120). -/
def operandBytesRead (row : OpcodeRow) : Nat :=
  match row.mnemonic, row.mode with
  | .kil, _ | .xaa, _ | .dop, .immediate => 0
  | _, m => m.size - 1

/-- The next instruction by the common advance (R121). -/
def nextPc (m : Mode) (s : State) : Word := s.pc + BitVec.ofNat 16 m.size

/-- The operand can be read: it is no byte of the unmapped window (R55, R302). -/
abbrev Readable (m : Operand) (s : State) : Prop := ∀ ad, m = .mem ad → ¬ InUnmapped (operandAddress ad s)

/-- Reading the operand gives `v`, and the state after it, `u`, is `s` but for the hook calls made. -/
def ReadsAs (m : Operand) (s : State) (v : Byte) (u : State) : Prop :=
  loadOperand m s = .ok v u ∧ u = { s with ppuCalls := u.ppuCalls }

/-- Read class (R136): where the operand can be read, the instruction completes; with `v` the byte read and `u` the
state after the read, it leaves `f v u` at the next instruction. -/
def ReadsInto (i : Instr) (m : Operand) (s : State) (f : Byte → State → State) : Prop :=
  Readable m s → ∃ v u, ReadsAs m s v u ∧ Leaves i s { f v u with pc := nextPc m.mode s }

/-- The RAM cell behind an address of the RAM window (R52). -/
abbrev ramCell (a : Word) : Nat := a.toNat % 0x800

/-- The PPU register behind an address of the PPU window (R53). -/
abbrev ppuReg (a : Word) : BitVec 3 := a.setWidth 3

/-- Store class (R136): where the operand can be written, the instruction completes; `v` is written once at the operand
address, the rest of the state is `t`, at the next instruction. -/
def StoresTo (i : Instr) (ad : Addressing) (s t : State) (v : Byte) : Prop :=
  (InRam (operandAddress ad s) →
    Leaves i s { t with
      mem := s.mem.set (ramCell (operandAddress ad s)) v
      pc := nextPc ad.mode s }) ∧
  (InPpu (operandAddress ad s) →
    Leaves i s { t with
      ppuCalls := .write (ppuReg (operandAddress ad s)) v :: s.ppuCalls
      pc := nextPc ad.mode s })

/-- Read-modify-write class (R136): where the operand can be written, the instruction completes; with `v` the byte read,
`g v` is written to the same address by exactly one write after exactly one read, and the registers and flags are those
of `f v`, at the next instruction. -/
def ModifiesTo (i : Instr) (ad : Addressing) (s : State) (g : Byte → Byte) (f : Byte → State) : Prop :=
  (InRam (operandAddress ad s) →
    Leaves i s { f (s.mem.get (ramCell (operandAddress ad s))) with
      mem := s.mem.set (ramCell (operandAddress ad s)) (g (s.mem.get (ramCell (operandAddress ad s))))
      pc := nextPc ad.mode s }) ∧
  (InPpu (operandAddress ad s) →
    Leaves i s { f (ppuValue s (ppuReg (operandAddress ad s))) with
      ppuCalls :=
        .write (ppuReg (operandAddress ad s)) (g (ppuValue s (ppuReg (operandAddress ad s)))) ::
          .read (ppuReg (operandAddress ad s)) :: s.ppuCalls
      pc := nextPc ad.mode s })

/-! ### Access classes (R136) -/

/-- The operand a read-class instruction reads. -/
def readOperand : Instr → Option Operand
  | .lda m | .ldx m | .ldy m => some m
  | .adc m | .sbc m | .and m | .ora m | .eor m | .cmp m | .cpx m | .cpy m => some m
  | .bit m | .lax m => some (.mem m)
  | .lar w => some (.mem (.aby w))
  | .sbcStar b | .aac _ b | .arr b | .asr b | .atx b | .axs b => some (.imm b)
  | _ => none

/-- The operand a store-class instruction writes. -/
def storeOperand : Instr → Option Addressing
  | .sta m | .stx m | .sty m | .sax m | .axa m => some m
  | .sxa w | .xas w => some (.aby w)
  | .sya w => some (.abx w)
  | _ => none

/-- The memory operand a read-modify-write instruction reads and writes. -/
def modifyOperand : Instr → Option Addressing
  | .asl (.mem m) | .lsr (.mem m) | .rol (.mem m) | .ror (.mem m) => some m
  | .inc m | .dec m => some m
  | .dcp m | .isb m | .slo m | .rla m | .sre m | .rra m => some m
  | _ => none

/-- The five unstable instructions, which a machine may be configured without (D15). -/
def isUnstable : Instr → Bool
  | .axa _ | .sxa _ | .sya _ | .xas _ | .lar _ => true
  | _ => false

/-! ### Who writes what -/

/-- The instructions that move `pc` themselves when they do (R121): branches, `JMP JSR RTS RTI`, and `BRK`. -/
def movesPc : Instr → Bool
  | .bcc _ | .bcs _ | .beq _ | .bne _ | .bmi _ | .bpl _ | .bvc _ | .bvs _ => true
  | .jmp _ | .jsr _ | .rts | .rti | .brk => true
  | _ => false

/-- The writers of `A` (R21). -/
def writesA : Instr → Bool
  | .lda _ | .txa | .tya | .pla | .adc _ | .sbc _ | .and _ | .ora _ | .eor _ => true
  | .asl .acc | .lsr .acc | .rol .acc | .ror .acc => true
  | .lax _ | .isb _ | .slo _ | .rla _ | .sre _ | .rra _ => true
  | .sbcStar _ | .aac _ _ | .arr _ | .asr _ | .atx _ | .lar _ => true
  | _ => false

/-- The writers of `X` (R22). -/
def writesX : Instr → Bool
  | .ldx _ | .tax | .tsx | .inx | .dex | .lax _ | .atx _ | .axs _ | .lar _ => true
  | _ => false

/-- The writers of `Y` (R23). -/
def writesY : Instr → Bool
  | .ldy _ | .tay | .iny | .dey => true
  | _ => false

/-- The writers of `SP` (R24). -/
def writesSP : Instr → Bool
  | .txs | .pha | .php | .pla | .plp | .jsr _ | .rts | .rti | .brk | .xas _ | .lar _ => true
  | _ => false

/-- The writers of `P.C` (R27). -/
def writesC : Instr → Bool
  | .adc _ | .sbc _ | .cmp _ | .cpx _ | .cpy _ | .asl _ | .lsr _ | .rol _ | .ror _ => true
  | .clc | .sec | .plp | .rti => true
  | .dcp _ | .isb _ | .slo _ | .rla _ | .sre _ | .rra _ => true
  | .sbcStar _ | .aac _ _ | .arr _ | .asr _ | .axs _ => true
  | _ => false

/-- The writers of `P.Z` (R28), which are the writers of `P.N` (R34). -/
def writesNZ : Instr → Bool
  | .lda _ | .ldx _ | .ldy _ | .tax | .tay | .tsx | .txa | .tya | .pla => true
  | .adc _ | .sbc _ | .and _ | .ora _ | .eor _ | .asl _ | .lsr _ | .rol _ | .ror _ => true
  | .inc _ | .dec _ | .inx | .iny | .dex | .dey => true
  | .lax _ | .dcp _ | .isb _ | .slo _ | .rla _ | .sre _ | .rra _ => true
  | .sbcStar _ | .aac _ _ | .arr _ | .asr _ | .atx _ | .axs _ | .lar _ => true
  | .cmp _ | .cpx _ | .cpy _ | .bit _ | .plp | .rti => true
  | _ => false

/-- The writers of `P.V` (R33). -/
def writesV : Instr → Bool
  | .adc _ | .sbc _ | .bit _ | .clv | .plp | .rti | .isb _ | .rra _ | .sbcStar _ | .arr _ => true
  | _ => false

/-- The writers of `P.I` (R29). -/
def writesI : Instr → Bool
  | .sei | .cli | .plp | .rti | .brk => true
  | _ => false

/-- The writers of `P.D` (R30). -/
def writesD : Instr → Bool
  | .sed | .cld | .plp | .rti => true
  | _ => false

/-- The instructions that put a whole byte into `P` (R31, R32): the only ones that touch its bits 5 and 4. -/
def writesStatusWhole : Instr → Bool
  | .plp | .rti => true
  | _ => false

/-- The cells an instruction stores to in a state: the cell behind the operand address of a store or a
read-modify-write, the stack slots of a push. -/
def storedCells (i : Instr) (s : State) : List Nat :=
  match i with
  | .pha | .php => [stackCell s.sp]
  | .jsr _ => [stackCell s.sp, stackCell (s.sp - 1)]
  | .brk =>
    match s.cfg.brkMode with
    | .halt => []
    | .vectored => [stackCell s.sp, stackCell (s.sp - 1), stackCell (s.sp - 2)]
  | i =>
    match storeOperand i, modifyOperand i with
    | some ad, _ => (cellOf s.cfg.prgSize (operandAddress ad s)).toList
    | none, some ad => (cellOf s.cfg.prgSize (operandAddress ad s)).toList
    | none, none => []

end Sys2Proof.Machine
end

