-- ==== Sys2Proof/Certificates/Slice0/Obligations.lean ====
section
/-! DEFINITION. The statements for the provers: each formalises or rests on numbered rules of spec/, named in its
docstring. No statement says what `cycles` holds after a step (92_eei_decisions.md D8: no claim may mention it): a
completion is about `exec`, which leaves `cycles` to the step (`Leaves`), and a statement about the step says "for
some value there" (`StepsAs`). A statement about all states holds in states no run reaches too; where it needs the
status register to be as R35 says, that is a premise and an invariant of its own. An opcode byte in a statement is
that of the spec's matrix, which the spec marks as general knowledge but for seven bytes (G1; log entry 14); the
reading of a mnemonic (what a branch tests, what a transfer copies, which way a shift or a step goes, what sets and
what clears) is the spec's general-knowledge reading (G2 to G4; log entry 15). -/

open Sys2Proof Sys2Proof.Machine

/-! ### Encoding -/

/-- R90 to R97, R101: decoding the bytes of a well-formed instruction gives it back, whatever bytes follow. -/
def Obligations.DecodeReadsEncodedInstruction : Prop :=
  ∀ (i : Instr) (rest : List Byte), i.wellFormed = true → decode (encode i ++ rest) = .ok (i, rest)

/-- R90 to R97: whatever bytes decode, the instruction is well formed and its encoding is exactly the bytes consumed, so
no two instructions share bytes and no bit is dropped. -/
def Obligations.DecodedBytesEncodeBack : Prop :=
  ∀ (bytes rest : List Byte) (i : Instr),
    decode bytes = .ok (i, rest) → i.wellFormed = true ∧ bytes = encode i ++ rest

/-- R97, R94, D1: with enough bytes every one of the 256 opcode bytes decodes under the default table; under any table
a row whose mode its mnemonic has decodes to that mnemonic's instruction in that mode, a byte without a row is
rejected, and so is a row that selects no instruction rule (by the model's choice, log entry 25). -/
def Obligations.EveryOpcodeByteDecodes : Prop :=
  ∀ (op b1 b2 : Byte) (rest : List Byte),
    (∃ i rest', decode (op :: b1 :: b2 :: rest) = .ok (i, rest')) ∧
    ∀ table : List (Byte × Option OpcodeRow),
      (optableRow table op = none → decodeWith table (op :: b1 :: b2 :: rest) = .error (.unknownOpcode op)) ∧
      (∀ row, optableRow table op = some row →
        (row.mode ∈ modesOf row.mnemonic →
          ∃ i rest', decodeWith table (op :: b1 :: b2 :: rest) = .ok (i, rest') ∧
            i.mnemonic = row.mnemonic ∧ i.mode = row.mode) ∧
        (row.mnemonic ≠ .kil → row.mnemonic ≠ .xaa → row.mode ∉ modesOf row.mnemonic →
          decodeWith table (op :: b1 :: b2 :: rest) = .error (.noRule op)))

/-- R95, R102: the bytes the source and the spec show decode to the instructions they show them for. -/
def Obligations.SpecWordsDecode : Prop :=
  decode [0xA9, 0x05] = .ok (.lda (.imm 0x05), []) ∧
  decode [0xAA] = .ok (.tax, []) ∧
  decode [0xE8] = .ok (.inx, []) ∧
  decode [0x00] = .ok (.brk, []) ∧
  decode [0x69, 0x50] = .ok (.adc (.imm 0x50), []) ∧
  decode [0x20, 0x05, 0x80] = .ok (.jsr 0x8005, []) ∧
  decode [0x60] = .ok (.rts, []) ∧
  decode [0x6C, 0xFF, 0x30] = .ok (.jmp (.ind 0x30FF), []) ∧
  decode [0xBD, 0x34, 0x12] = .ok (.lda (.mem (.abx 0x1234)), []) ∧
  decode [0xD0, 0xFA] = .ok (.bne 0xFA, [])

/-! ### The step -/

/-- R120: when the machine is running, the bytes at `pc` are stored in memory, and they decode to `i` under this
machine's table, then the step is the execution of `i` in the same state, but for what `cycles` holds, which the step
adds to. -/
def Obligations.StepRunsDecodedInstruction : Prop :=
  ∀ (s : State) (bytes : List Byte) (i : Instr),
    s.run = .running →
    (∀ (n : Nat) (h : n < bytes.length), storedByte s (s.pc + BitVec.ofNat 16 n) = some bytes[n]) →
    decodeWith s.cfg.optable bytes = .ok (i, []) →
    StepsAs s i s

/-- R55, R301, R302, R304, R305, R309: the faults of a fetch, in their order, each with the hook calls made up to it:
an unmapped opcode address, a byte the table has no row for, `KIL` or `XAA` (whatever their mode, and whatever follows
the byte), then the first unmapped operand byte of a row with an instruction rule. The byte after a `DOP` Immediate is
not read (R258, D16, log entry 17), so that instruction completes whatever stands there; under the default table it
has five bytes. -/
def Obligations.FetchFaults : Prop :=
  ∀ s : State, s.run = .running →
    (InUnmapped s.pc → step s = .fault (.fatal (.unmappedAddress s.pc .read) s.ppuCalls)) ∧
    (∀ op u, read8 s.pc s = .ok op u →
      (optableRow s.cfg.optable op = none → step s = .fault (.fatal (.unknownOpcode op s.pc) u.ppuCalls)) ∧
      (∀ row, optableRow s.cfg.optable op = some row →
        (row.mnemonic = .kil ∨ row.mnemonic = .xaa →
          step s = .fault (.fatal (.kilOrUnstableOpcode op s.pc) u.ppuCalls)) ∧
        (row.hasRule = true → 1 ≤ operandBytesRead row → InUnmapped (s.pc + 1) →
          step s = .fault (.fatal (.unmappedAddress (s.pc + 1) .read) u.ppuCalls)) ∧
        (row.hasRule = true → operandBytesRead row = 2 → ∀ b v, read8 (s.pc + 1) u = .ok b v → InUnmapped (s.pc + 2) →
          step s = .fault (.fatal (.unmappedAddress (s.pc + 2) .read) v.ppuCalls)) ∧
        (row.mnemonic = .dop → row.mode = .immediate →
          ∃ c, step s = .next { u with pc := s.pc + 2, cycles := c }))) ∧
    (s.cfg.optable = [] → ∀ op : Byte,
      (op ∈ [0x80, 0x82, 0x89, 0xC2, 0xE2] ↔
        ∃ row, optableRow s.cfg.optable op = some row ∧ row.mnemonic = .dop ∧ row.mode = .immediate))

/-- R97, R301: `UnknownOpcode` is raised only by a byte this machine's table has no row for, and it records that byte
and `pc0`; the default table has a row for every byte, so with it the fault does not arise. -/
def Obligations.UnknownOpcodeNeedsAbsentRow : Prop :=
  ∀ (s : State) (op : Byte) (pc : Word) (calls : List PpuCall),
    step s = .fault (.fatal (.unknownOpcode op pc) calls) →
    pc = s.pc ∧ (∃ u, read8 s.pc s = .ok op u) ∧ optableRow s.cfg.optable op = none ∧ s.cfg.optable ≠ []

/-- R40, R120, R123, R300, D15: a machine that is halted or faulted has no step (the model's name for that stop is
`notRunning`, log entry 7); a running machine stops only by one of the four fatal conditions, or by one of the model's
two refusals of a configuration: `UNSTABLE_STORES = refuse` (log entry 12), or a row of its table without an
instruction rule (log entry 25), of which the default table has none. -/
def Obligations.StepStopsOnlyAsSpecified : Prop :=
  ∀ s : State,
    (s.run ≠ .running → step s = .fault (.notRunning s.run)) ∧
    (s.run = .running →
      (∀ f, step s = .fault f → ∃ c calls, f = .fatal c calls) ∧
      (∀ r, step s = .refused r →
        (s.cfg.unstableStores = .refuse ∧ ∃ m, r = .unstableStores m) ∨
        (s.cfg.optable ≠ [] ∧ ∃ op u row, read8 s.pc s = .ok op u ∧ optableRow s.cfg.optable op = some row ∧
          row.hasRule = false ∧ r = .opcodeRow op)))

/-- R123, R346: a step leaves the machine running, or it was a `BRK` in `halt` mode and leaves it halted. -/
def Obligations.OnlyBrkEndsARun : Prop :=
  ∀ s t : State, step s = .next t →
    t.run = .running ∨ (t.run = .halted ∧ s.cfg.brkMode = .halt ∧ ∃ n u, fetch s = .ok (.instr .brk n) u)

/-! ### Reset and construction -/

/-- R340, R341, R342: what the reset sequence leaves, in every state: the five registers, `pc` from the override or from
the vector (whose fetch cannot fault and changes nothing), the run status; RAM, PRG, the configuration and the hook are
not touched. -/
def Obligations.ResetSequenceSetsRegisters : Prop :=
  ∀ s : State,
    (resetSequence s).a = 0x00 ∧ (resetSequence s).x = 0x00 ∧ (resetSequence s).y = 0x00 ∧
    (resetSequence s).p = 0x24 ∧ (resetSequence s).sp = 0xFD ∧ (resetSequence s).run = .running ∧
    (∀ w, s.cfg.resetPcOverride = some w → (resetSequence s).pc = w) ∧
    (s.cfg.resetPcOverride = none → read16 0xFFFC s = .ok (resetSequence s).pc s) ∧
    (resetSequence s).mem = s.mem ∧ (resetSequence s).cfg = s.cfg ∧ (resetSequence s).ppuCalls = s.ppuCalls

/-- R43, R344: the values of the initial state; `pc` is the word the bus reads at the reset vector, and its being that
of an empty cartridge is the model's choice (log entries 3 and 4). -/
def Obligations.ResetStateValues : Prop :=
  State.reset.a = 0x00 ∧ State.reset.x = 0x00 ∧ State.reset.y = 0x00 ∧ State.reset.sp = 0xFD ∧
  State.reset.p = 0x24 ∧ State.reset.run = .running ∧
  read16 0xFFFC State.reset = .ok State.reset.pc State.reset

/-- R344, R345, R7, R44, R38, R56, R37, D6: construction with a cartridge of an admitted length and 2,048 bytes of RAM
gives the state whose configuration is the given one with the cartridge's length, whose RAM reads as the RAM contents
and whose PRG window reads as the cartridge, running at the entry address with the registers at their reset values and
no hook call made (the record of calls is the model's own field, log entry 10); another length is refused. -/
def Obligations.BootBuildsTheMachine : Prop :=
  ∀ (cfg : Config) (prg ram : List Byte), ram.length = 0x800 →
    (prg.length = 0x4000 ∨ prg.length = 0x8000 →
      ∃ t, boot cfg prg ram = .next t ∧ Inv t ∧ t.run = .running ∧ t.ppuCalls = [] ∧
        (prg.length = 0x4000 → t.cfg = { cfg with prgSize := .kib16 }) ∧
        (prg.length = 0x8000 → t.cfg = { cfg with prgSize := .kib32 }) ∧
        (t.a = 0x00 ∧ t.x = 0x00 ∧ t.y = 0x00 ∧ t.sp = 0xFD ∧ t.p = 0x24) ∧
        (∀ w, cfg.resetPcOverride = some w → t.pc = w) ∧
        (∀ a : Word, InRam a → storedByte t a = some (ram.getD (a.toNat % 0x800) 0)) ∧
        (∀ a : Word, InPrg a → storedByte t a = some (prg.getD ((a.toNat - 0x8000) % prg.length) 0)) ∧
        (cfg.resetPcOverride = none →
          t.pc = wordOf (prg.getD (0x7FFD % prg.length) 0) (prg.getD (0x7FFC % prg.length) 0))) ∧
    (prg.length ≠ 0x4000 → prg.length ≠ 0x8000 → boot cfg prg ram = .refused (.prgLength prg.length))

/-! ### Invariants and whole-machine rules -/

/-- R35, R37, R38 and the canonical memory: every step that answers keeps the invariant. -/
def Obligations.StepKeepsInvariant : Prop :=
  ∀ s t : State, Inv s → step s = .next t → Inv t

/-- R43: the invariant holds in the state after reset. -/
def Obligations.ResetMeetsInvariant : Prop := Inv State.reset

/-- R44, R57: no step changes the configuration or any byte of the cartridge. -/
def Obligations.StepKeepsConfigurationAndCartridge : Prop :=
  ∀ s t : State, step s = .next t → t.cfg = s.cfg ∧ ∀ a : Word, InPrg a → storedByte t a = storedByte s a

/-- R20 to R24, R66: every byte of memory reads after an instruction as before it, but for the cells the instruction
stores to: the cell behind the operand address of a store or read-modify-write, computed in the state before, or the
stack slots of a push. -/
def Obligations.MemoryChangesOnlyWhereStored : Prop :=
  ∀ (i : Instr) (s t : State), exec i s = .next t →
    ∀ a : Word, (∀ k ∈ storedCells i s, cellOf s.cfg.prgSize a ≠ some k) → storedByte t a = storedByte s a

/-- R21 to R24: `A`, `X`, `Y` and `SP` are changed by no instruction but their writers. -/
def Obligations.RegistersChangeOnlyByTheirWriters : Prop :=
  ∀ (i : Instr) (s t : State), exec i s = .next t →
    (writesA i = false → t.a = s.a) ∧ (writesX i = false → t.x = s.x) ∧ (writesY i = false → t.y = s.y) ∧
    (writesSP i = false → t.sp = s.sp)

/-- R27, R28, R29, R30, R33, R34: each of the six flags is changed by no instruction but its writers. -/
def Obligations.FlagsChangeOnlyByTheirWriters : Prop :=
  ∀ (i : Instr) (s t : State), exec i s = .next t →
    (writesC i = false → flagC t.p = flagC s.p) ∧ (writesV i = false → flagV t.p = flagV s.p) ∧
    (writesNZ i = false → flagZ t.p = flagZ s.p ∧ flagN t.p = flagN s.p) ∧
    (writesI i = false → flagI t.p = flagI s.p) ∧ (writesD i = false → flagD t.p = flagD s.p)

/-- R31, R32: bits 5 and 4 of the running status are changed by no instruction but `PLP` and `RTI`, which force them
to 1 and 0. -/
def Obligations.BreakBitsOfTheStatus : Prop :=
  ∀ (i : Instr) (s t : State), exec i s = .next t →
    (writesStatusWhole i = false → flag5 t.p = flag5 s.p ∧ flagB t.p = flagB s.p) ∧
    (writesStatusWhole i = true → flag5 t.p = true ∧ flagB t.p = false)

/-- R121: an instruction that does not move `pc` itself advances it by its size, modulo 65,536, and leaves the run
status as it was. -/
def Obligations.PcAdvancesByTheSize : Prop :=
  ∀ (i : Instr) (s t : State), exec i s = .next t → movesPc i = false →
    t.pc = s.pc + BitVec.ofNat 16 i.mode.size ∧ t.run = s.run

/-! ### Memory, bus, stack -/

/-- Two memories in canonical form that read alike in every cell are equal. -/
def Obligations.CanonicalMemoriesThatReadAlikeAreEqual : Prop :=
  ∀ m n : Memory, m.wf → n.wf → (∀ k, m.get k = n.get k) → m = n

/-- R58, R53, D11, R305: the value, the effect and the fault of a byte read, window by window. That the hook's calls
are recorded, and that a hook outside the block answers a free value of the calls before, is the model's choice (log
entry 10). -/
def Obligations.BusReadByWindow : Prop :=
  ∀ (a : Word) (s : State),
    (InRam a → read8 a s = .ok (s.mem.get (a.toNat % 0x800)) s) ∧
    (InPpu a → s.cfg.ppu = .null →
      read8 a s = .ok 0x00 { s with ppuCalls := .read (a.setWidth 3) :: s.ppuCalls }) ∧
    (InPpu a → s.cfg.ppu = .external →
      read8 a s = .ok (Config.ppuHookValue s.ppuCalls (a.setWidth 3))
        { s with ppuCalls := .read (a.setWidth 3) :: s.ppuCalls }) ∧
    (InUnmapped a → read8 a s = .stop (.unmappedAddress a .read) s.ppuCalls) ∧
    (InPrg a → s.cfg.prgSize = .kib16 → read8 a s = .ok (s.mem.get (0x8000 + a.toNat % 0x4000)) s) ∧
    (InPrg a → s.cfg.prgSize = .kib32 → read8 a s = .ok (s.mem.get a.toNat) s)

/-- R59, R54, R305: the effect and the faults of a byte write, window by window. That the hook's calls are recorded is
the model's choice (log entry 10). -/
def Obligations.BusWriteByWindow : Prop :=
  ∀ (a : Word) (v : Byte) (s : State),
    (InRam a → write8 a v s = .ok () { s with mem := s.mem.set (a.toNat % 0x800) v }) ∧
    (InPpu a → write8 a v s = .ok () { s with ppuCalls := .write (a.setWidth 3) v :: s.ppuCalls }) ∧
    (InUnmapped a → write8 a v s = .stop (.unmappedAddress a .write) s.ppuCalls) ∧
    (InPrg a → write8 a v s = .stop (.prgRomWrite a) s.ppuCalls)

/-- R52: a RAM write is seen through every mirror of its cell and through no other RAM address. -/
def Obligations.RamMirrorsAlias : Prop :=
  ∀ (a b : Word) (v : Byte) (s t : State), InRam a → InRam b → write8 a v s = .ok () t →
    (a &&& 0x07FF = b &&& 0x07FF → read8 b t = .ok v t) ∧
    (a &&& 0x07FF ≠ b &&& 0x07FF → ∀ w, read8 b s = .ok w s → read8 b t = .ok w t)

/-- R60, R61, R62: a word access is two byte accesses, low byte first, little-endian, wrapping only at the top of the
space; the first fault ends it; a word written to RAM reads back. -/
def Obligations.WordAccessIsTwoByteAccesses : Prop :=
  ∀ (a : Word) (s : State),
    (∀ l h t u, read8 a s = .ok l t → read8 (a + 1) t = .ok h u → read16 a s = .ok (wordOf h l) u) ∧
    (∀ c q, read8 a s = .stop c q → read16 a s = .stop c q) ∧
    (∀ l t c q, read8 a s = .ok l t → read8 (a + 1) t = .stop c q → read16 a s = .stop c q) ∧
    (∀ w t u, write8 a (lo w) s = .ok () t → write8 (a + 1) (hi w) t = .ok () u → write16 a w s = .ok () u) ∧
    (∀ w c q, write8 a (lo w) s = .stop c q → write16 a w s = .stop c q) ∧
    (∀ w t c q, write8 a (lo w) s = .ok () t → write8 (a + 1) (hi w) t = .stop c q → write16 a w s = .stop c q) ∧
    (∀ w t, InRam a → InRam (a + 1) → write16 a w s = .ok () t → read16 a t = .ok w t)

/-- R66, R67: a push is the bus write at `0x0100 + SP` and the decrement, a pull the increment and the bus read; both
wrap modulo 256, neither faults, and a pull after a push gives the byte back with `SP` as before. R68, R69: a word is
pushed high byte first and pulled low byte first; a pull after a push gives the word back with `SP` as before, for
every `SP`. -/
def Obligations.PushThenPullIsIdentity : Prop :=
  ∀ (v : Byte) (w : Word) (s : State),
    (push8 v s = { s with mem := s.mem.set (0x100 + s.sp.toNat) v, sp := s.sp - 1 } ∧
      write8 (0x0100 + zext16 s.sp) v s = .ok () { push8 v s with sp := s.sp } ∧
      pull8 s = { s with sp := s.sp + 1 } ∧
      read8 (0x0100 + zext16 (s.sp + 1)) (pull8 s) = .ok (pulledByte s) (pull8 s) ∧
      pulledByte (push8 v s) = v ∧ (pull8 (push8 v s)).sp = s.sp) ∧
    (push16 w s = push8 (lo w) (push8 (hi w) s) ∧
      pulledWord s = wordOf (pulledByte (pull8 s)) (pulledByte s) ∧ pull16 s = pull8 (pull8 s) ∧
      pulledWord (push16 w s) = w ∧ (pull16 (push16 w s)).sp = s.sp)

/-! ### Operands and flags -/

/-- R127, R128, R130, R131, R132: the operand address, the base before the index and the size of the modes without a
pointer. -/
def Obligations.OperandAddressOfDirectModes : Prop :=
  ∀ (s : State) (b : Byte) (w : Word),
    operandAddress (.zp b) s = b.setWidth 16 ∧ (Addressing.zp b).mode.size = 2 ∧
    (operandAddress (.zpx b) s).toNat = (b.toNat + s.x.toNat) % 256 ∧ (Addressing.zpx b).mode.size = 2 ∧
    (operandAddress (.zpy b) s).toNat = (b.toNat + s.y.toNat) % 256 ∧ (Addressing.zpy b).mode.size = 2 ∧
    operandAddress (.abs w) s = w ∧ (Addressing.abs w).mode.size = 3 ∧
    operandBase (.abx w) s = w ∧ (operandAddress (.abx w) s).toNat = (w.toNat + s.x.toNat) % 65536 ∧
    (Addressing.abx w).mode.size = 3 ∧
    operandBase (.aby w) s = w ∧ (operandAddress (.aby w) s).toNat = (w.toNat + s.y.toNat) % 65536 ∧
    (Addressing.aby w).mode.size = 3

/-- R134, R135: the pointer bytes of IndirectX and IndirectY come from the zero page by two bus reads that wrap within
it, neither faults nor has an effect; `X` is added to the pointer, `Y` to the word it names. -/
def Obligations.OperandAddressOfPointerModes : Prop :=
  ∀ (s : State) (b : Byte),
    (∃ l h, read8 ((b + s.x).setWidth 16) s = .ok l s ∧ read8 ((b + s.x + 1).setWidth 16) s = .ok h s ∧
      operandAddress (.inx b) s = wordOf h l) ∧ (Addressing.inx b).mode.size = 2 ∧
    (∃ l h, read8 (b.setWidth 16) s = .ok l s ∧ read8 ((b + 1).setWidth 16) s = .ok h s ∧
      operandBase (.iny b) s = wordOf h l ∧
      operandAddress (.iny b) s = wordOf h l + s.y.setWidth 16) ∧ (Addressing.iny b).mode.size = 2

/-- R136, R125, R124: what reading an operand gives: the immediate byte, the accumulator, or one bus read of the operand
address. -/
def Obligations.OperandValue : Prop :=
  ∀ (s : State) (b : Byte) (ad : Addressing),
    loadOperand (.imm b) s = .ok b s ∧ loadOperand .acc s = .ok s.a s ∧
    loadOperand (.mem ad) s = read8 (operandAddress ad s) s

/-- R12: `setNZ` sets `Z` when the byte is zero and `N` to its bit 7, and leaves the other six bits. -/
def Obligations.SetNZFlags : Prop :=
  ∀ p v : Byte,
    ((setNZ p v).getLsbD 1 = true ↔ v = 0) ∧ (setNZ p v).getLsbD 7 = v.getLsbD 7 ∧
    ∀ i, i ≠ 1 → i ≠ 7 → (setNZ p v).getLsbD i = p.getLsbD i

/-- R170, R179: the sum is exact: result and carry together are `a + m + C`, `V` says that the signed sum does not fit,
`Z` and `N` follow the result, and the other four bits stay. -/
def Obligations.AdditionIsExact : Prop :=
  ∀ (p a m : Byte) (c : Bool),
    (addResult a m c).toNat + (if (addStatus p a m c).getLsbD 0 then 256 else 0) =
      a.toNat + m.toNat + (if c then 1 else 0) ∧
    ((addStatus p a m c).getLsbD 6 = true ↔
      ¬ (-128 ≤ a.toInt + m.toInt + (if c then 1 else 0) ∧ a.toInt + m.toInt + (if c then 1 else 0) ≤ 127)) ∧
    ((addStatus p a m c).getLsbD 1 = true ↔ addResult a m c = 0) ∧
    (addStatus p a m c).getLsbD 7 = (addResult a m c).getLsbD 7 ∧
    ∀ i, 2 ≤ i → i ≤ 5 → (addStatus p a m c).getLsbD i = p.getLsbD i

/-- R181: subtracting what was added, with the borrow equal to the add's carry in, gives the first operand back; with
the same carry it gives `a + 2c - 1`. -/
def Obligations.SubtractUndoesAdd : Prop :=
  ∀ (a b : Byte) (c : Bool),
    addResult (addResult a b c) (subOperand b) (!c) = a ∧
    addResult (addResult a b c) (subOperand b) c = a + (if c then 1 else 0) + (if c then 1 else 0) - 1

/-- R180: `ADC`, `SBC`, `SBC*`, `RRA` and `ISB` do the same whatever `D` holds. -/
def Obligations.DecimalFlagIsInert : Prop :=
  ∀ (m : Operand) (ad : Addressing) (b : Byte) (d : Bool) (s t : State) (i : Instr),
    i ∈ [Instr.adc m, .sbc m, .sbcStar b, .rra ad, .isb ad] →
    exec i s = .next t → exec i { s with p := putD s.p d } = .next { t with p := putD t.p d }

/-! ### What each instruction does -/

/-- R150, R151, R152: the loads. -/
def Obligations.LoadsSetTheirRegister : Prop :=
  ∀ (m : Operand) (s : State),
    ReadsInto (.lda m) m s (fun v u => { u with a := v, p := setNZ s.p v }) ∧
    ReadsInto (.ldx m) m s (fun v u => { u with x := v, p := setNZ s.p v }) ∧
    ReadsInto (.ldy m) m s (fun v u => { u with y := v, p := setNZ s.p v })

/-- R153, R154, R155, R251: the stores write their register, `SAX` writes `A AND X`, and no flag changes. -/
def Obligations.StoresWriteTheirRegister : Prop :=
  ∀ (ad : Addressing) (s : State),
    StoresTo (.sta ad) ad s s s.a ∧ StoresTo (.stx ad) ad s s s.x ∧ StoresTo (.sty ad) ad s s s.y ∧
    StoresTo (.sax ad) ad s s (s.a &&& s.x)

/-- R156 to R161: the transfers and their encodings (log entries 14 and 15). -/
def Obligations.TransfersCopyRegisters : Prop :=
  ∀ s : State,
    (encode .tax = [0xAA] ∧ Leaves .tax s { s with x := s.a, p := setNZ s.p s.a, pc := s.pc + 1 }) ∧
    (encode .tay = [0xA8] ∧ Leaves .tay s { s with y := s.a, p := setNZ s.p s.a, pc := s.pc + 1 }) ∧
    (encode .tsx = [0xBA] ∧ Leaves .tsx s { s with x := s.sp, p := setNZ s.p s.sp, pc := s.pc + 1 }) ∧
    (encode .txa = [0x8A] ∧ Leaves .txa s { s with a := s.x, p := setNZ s.p s.x, pc := s.pc + 1 }) ∧
    (encode .tya = [0x98] ∧ Leaves .tya s { s with a := s.y, p := setNZ s.p s.y, pc := s.pc + 1 }) ∧
    (encode .txs = [0x9A] ∧ Leaves .txs s { s with sp := s.x, pc := s.pc + 1 })

/-- R170, R171, R261: `ADC` adds the operand, `SBC` and `SBC*` add its complement, with the carry before. -/
def Obligations.AddAndSubtract : Prop :=
  ∀ (m : Operand) (b : Byte) (s : State),
    ReadsInto (.adc m) m s (fun v u =>
      { u with a := addResult s.a v (flagC s.p), p := addStatus s.p s.a v (flagC s.p) }) ∧
    ReadsInto (.sbc m) m s (fun v u =>
      { u with a := addResult s.a (v ^^^ 0xFF) (flagC s.p), p := addStatus s.p s.a (v ^^^ 0xFF) (flagC s.p) }) ∧
    Leaves (.sbcStar b) s { s with
      a := addResult s.a (b ^^^ 0xFF) (flagC s.p), p := addStatus s.p s.a (b ^^^ 0xFF) (flagC s.p), pc := s.pc + 2 }

/-- R172, R173, R174: the logic instructions. -/
def Obligations.LogicOnTheAccumulator : Prop :=
  ∀ (m : Operand) (s : State),
    ReadsInto (.and m) m s (fun v u => { u with a := s.a &&& v, p := setNZ s.p (s.a &&& v) }) ∧
    ReadsInto (.ora m) m s (fun v u => { u with a := s.a ||| v, p := setNZ s.p (s.a ||| v) }) ∧
    ReadsInto (.eor m) m s (fun v u => { u with a := s.a ^^^ v, p := setNZ s.p (s.a ^^^ v) })

/-- R175, R176, R177: the compares write `C`, `Z` and `N` and no register. R178: `BIT` takes `Z` from `A AND M`, `N`
and `V` from the operand. -/
def Obligations.ComparesAndBitTestSetFlagsOnly : Prop :=
  ∀ (m : Operand) (ad : Addressing) (s : State),
    ReadsInto (.cmp m) m s (fun v u =>
      { u with p := putN (putZ (putC s.p (decide (v.toNat ≤ s.a.toNat))) (s.a == v)) ((s.a - v).getLsbD 7) }) ∧
    ReadsInto (.cpx m) m s (fun v u =>
      { u with p := putN (putZ (putC s.p (decide (v.toNat ≤ s.x.toNat))) (s.x == v)) ((s.x - v).getLsbD 7) }) ∧
    ReadsInto (.cpy m) m s (fun v u =>
      { u with p := putN (putZ (putC s.p (decide (v.toNat ≤ s.y.toNat))) (s.y == v)) ((s.y - v).getLsbD 7) }) ∧
    ReadsInto (.bit ad) (.mem ad) s (fun v u =>
      { u with p := putV (putN (putZ s.p ((s.a &&& v) == 0)) (v.getLsbD 7)) (v.getLsbD 6) })

/-- R190 to R195: the shifts and rotates of the accumulator, and the shifts, rotates, `INC` and `DEC` of memory: one
read, one write (D13, log entry 16), then the flags (directions: log entry 15). -/
def Obligations.ShiftsRotatesAndSteps : Prop :=
  ∀ (ad : Addressing) (s : State),
    Leaves (.asl .acc) s { s with
      a := s.a <<< 1, p := setNZ (putC s.p (s.a.getLsbD 7)) (s.a <<< 1), pc := s.pc + 1 } ∧
    Leaves (.lsr .acc) s { s with
      a := s.a >>> 1, p := setNZ (putC s.p (s.a.getLsbD 0)) (s.a >>> 1), pc := s.pc + 1 } ∧
    Leaves (.rol .acc) s { s with
      a := s.a <<< 1 ||| carryByte (flagC s.p)
      p := setNZ (putC s.p (s.a.getLsbD 7)) (s.a <<< 1 ||| carryByte (flagC s.p)), pc := s.pc + 1 } ∧
    Leaves (.ror .acc) s { s with
      a := s.a >>> 1 ||| carryByte (flagC s.p) <<< 7
      p := setNZ (putC s.p (s.a.getLsbD 0)) (s.a >>> 1 ||| carryByte (flagC s.p) <<< 7), pc := s.pc + 1 } ∧
    ModifiesTo (.asl (.mem ad)) ad s (fun v => v <<< 1)
      (fun v => { s with p := setNZ (putC s.p (v.getLsbD 7)) (v <<< 1) }) ∧
    ModifiesTo (.lsr (.mem ad)) ad s (fun v => v >>> 1)
      (fun v => { s with p := setNZ (putC s.p (v.getLsbD 0)) (v >>> 1) }) ∧
    ModifiesTo (.rol (.mem ad)) ad s (fun v => v <<< 1 ||| carryByte (flagC s.p))
      (fun v => { s with p := setNZ (putC s.p (v.getLsbD 7)) (v <<< 1 ||| carryByte (flagC s.p)) }) ∧
    ModifiesTo (.ror (.mem ad)) ad s (fun v => v >>> 1 ||| carryByte (flagC s.p) <<< 7)
      (fun v => { s with p := setNZ (putC s.p (v.getLsbD 0)) (v >>> 1 ||| carryByte (flagC s.p) <<< 7) }) ∧
    ModifiesTo (.inc ad) ad s (fun v => v + 1) (fun v => { s with p := setNZ s.p (v + 1) }) ∧
    ModifiesTo (.dec ad) ad s (fun v => v - 1) (fun v => { s with p := setNZ s.p (v - 1) })

/-- R196 to R199: the index steps and their encodings (log entries 14 and 15). -/
def Obligations.StepsOfTheIndexRegisters : Prop :=
  ∀ s : State,
    (encode .inx = [0xE8] ∧ Leaves .inx s { s with x := s.x + 1, p := setNZ s.p (s.x + 1), pc := s.pc + 1 }) ∧
    (encode .iny = [0xC8] ∧ Leaves .iny s { s with y := s.y + 1, p := setNZ s.p (s.y + 1), pc := s.pc + 1 }) ∧
    (encode .dex = [0xCA] ∧ Leaves .dex s { s with x := s.x - 1, p := setNZ s.p (s.x - 1), pc := s.pc + 1 }) ∧
    (encode .dey = [0x88] ∧ Leaves .dey s { s with y := s.y - 1, p := setNZ s.p (s.y - 1), pc := s.pc + 1 })

/-- R126, R210 to R217, R235: each branch goes to its target exactly when its flag says so, else to the next
instruction, and changes nothing else (log entries 14 and 15). -/
def Obligations.BranchesFollowTheirFlag : Prop :=
  ∀ (off : Byte) (s : State),
    (encode (.bcc off) = [0x90, off] ∧
      Leaves (.bcc off) s { s with pc := if s.p.getLsbD 0 then s.pc + 2 else s.pc + 2 + off.signExtend 16 }) ∧
    (encode (.bcs off) = [0xB0, off] ∧
      Leaves (.bcs off) s { s with pc := if s.p.getLsbD 0 then s.pc + 2 + off.signExtend 16 else s.pc + 2 }) ∧
    (encode (.beq off) = [0xF0, off] ∧
      Leaves (.beq off) s { s with pc := if s.p.getLsbD 1 then s.pc + 2 + off.signExtend 16 else s.pc + 2 }) ∧
    (encode (.bne off) = [0xD0, off] ∧
      Leaves (.bne off) s { s with pc := if s.p.getLsbD 1 then s.pc + 2 else s.pc + 2 + off.signExtend 16 }) ∧
    (encode (.bmi off) = [0x30, off] ∧
      Leaves (.bmi off) s { s with pc := if s.p.getLsbD 7 then s.pc + 2 + off.signExtend 16 else s.pc + 2 }) ∧
    (encode (.bpl off) = [0x10, off] ∧
      Leaves (.bpl off) s { s with pc := if s.p.getLsbD 7 then s.pc + 2 else s.pc + 2 + off.signExtend 16 }) ∧
    (encode (.bvc off) = [0x50, off] ∧
      Leaves (.bvc off) s { s with pc := if s.p.getLsbD 6 then s.pc + 2 else s.pc + 2 + off.signExtend 16 }) ∧
    (encode (.bvs off) = [0x70, off] ∧
      Leaves (.bvs off) s { s with pc := if s.p.getLsbD 6 then s.pc + 2 + off.signExtend 16 else s.pc + 2 })

/-- R218, R130, R133: `JMP` goes to its operand, or to the word its pointer names, whose high byte comes from the
pointer's own page; a pointer in the unmapped window faults at its low byte. -/
def Obligations.JumpGoesToItsTarget : Prop :=
  ∀ (w : Word) (s : State),
    Leaves (.jmp (.abs w)) s { s with pc := w } ∧
    (¬ InUnmapped w → ∃ l h t u,
      read8 w s = .ok l t ∧ read8 ((w &&& 0xFF00) ||| ((w + 1) &&& 0x00FF)) t = .ok h u ∧
      u = { s with ppuCalls := u.ppuCalls } ∧ Leaves (.jmp (.ind w)) s { u with pc := wordOf h l }) ∧
    (InUnmapped w → exec (.jmp (.ind w)) s = .fault (.fatal (.unmappedAddress w .read) s.ppuCalls))

/-- R219, R220: `JSR` pushes the address of its last byte, high byte first, and goes to its operand; `RTS` pulls a
word and goes one past it. Nothing else changes. -/
def Obligations.SubroutineCallAndReturn : Prop :=
  ∀ (w : Word) (s : State),
    (encode (.jsr w) = [0x20, lo w, hi w] ∧
      Leaves (.jsr w) s { s with
        mem := (s.mem.set (0x100 + s.sp.toNat) (hi (s.pc + 2))).set (0x100 + (s.sp - 1).toNat) (lo (s.pc + 2))
        sp := s.sp - 2, pc := w }) ∧
    (encode .rts = [0x60] ∧
      Leaves .rts s { s with
        sp := s.sp + 2
        pc := wordOf (s.mem.get (0x100 + (s.sp + 2).toNat)) (s.mem.get (0x100 + (s.sp + 1).toNat)) + 1 })

/-- R219, R220, P7: an `RTS` executed with `SP` and the two stack bytes as the `JSR` left them goes to the instruction
after the `JSR` and restores `SP`. -/
def Obligations.ReturnComesBackAfterTheCall : Prop :=
  ∀ (w : Word) (s t r u : State), exec (.jsr w) s = .next t → r.sp = t.sp →
    (∀ k, k = stackCell s.sp ∨ k = stackCell (s.sp - 1) → r.mem.get k = t.mem.get k) →
    exec .rts r = .next u → u.pc = s.pc + 3 ∧ u.sp = s.sp

/-- R221: `RTI` pulls the status, forcing bit 5 to 1 and `B` to 0, then `pc` with no adjustment. -/
def Obligations.ReturnFromInterrupt : Prop :=
  ∀ s : State,
    encode .rti = [0x40] ∧
    Leaves .rti s { s with
      p := (s.mem.get (0x100 + (s.sp + 1).toNat) ||| 0x20) &&& 0xEF
      sp := s.sp + 3
      pc := wordOf (s.mem.get (0x100 + (s.sp + 3).toNat)) (s.mem.get (0x100 + (s.sp + 2).toNat)) }

/-- R222, R310, R311, R312: `BRK` in `halt` mode halts the run and changes nothing else (that `pc` stays at the `BRK`
is the spec's own decision D3, log entry 8). In `vectored` mode it pushes `pc0 + 2`, high byte first, and `P | 0x30`,
sets `I` after the push, and goes to the word the bus reads at `0xFFFE`; nothing else changes. -/
def Obligations.BreakHaltsOrTakesTheVector : Prop :=
  ∀ s : State,
    (s.cfg.brkMode = .halt → Leaves .brk s { s with run := .halted }) ∧
    (s.cfg.brkMode = .vectored →
      ∃ v, read16 0xFFFE s = .ok v s ∧
        Leaves .brk s { s with
          mem :=
            ((s.mem.set (0x100 + s.sp.toNat) (hi (s.pc + 2))).set (0x100 + (s.sp - 1).toNat) (lo (s.pc + 2))).set
              (0x100 + (s.sp - 2).toNat) (s.p ||| 0x30)
          sp := s.sp - 3, p := putI s.p true, pc := v })

/-- R311, R312, R313: an `RTI` executed with `SP` and the three stack bytes as the vectored `BRK` left them resumes
two bytes after the `BRK` opcode with `SP` and, where the status was as R35 says, `P` as before. -/
def Obligations.InterruptReturnUndoesBreak : Prop :=
  ∀ s t r u : State, s.cfg.brkMode = .vectored → StatusOk s.p → exec .brk s = .next t → r.sp = t.sp →
    (∀ k, k = stackCell s.sp ∨ k = stackCell (s.sp - 1) ∨ k = stackCell (s.sp - 2) → r.mem.get k = t.mem.get k) →
    exec .rti r = .next u → u.pc = s.pc + 2 ∧ u.sp = s.sp ∧ u.p = s.p

/-- R223 to R226: the stack instructions and their encodings (log entry 14). -/
def Obligations.StackInstructions : Prop :=
  ∀ s : State,
    (encode .pha = [0x48] ∧
      Leaves .pha s { s with mem := s.mem.set (0x100 + s.sp.toNat) s.a, sp := s.sp - 1, pc := s.pc + 1 }) ∧
    (encode .pla = [0x68] ∧
      Leaves .pla s { s with
        a := s.mem.get (0x100 + (s.sp + 1).toNat)
        p := setNZ s.p (s.mem.get (0x100 + (s.sp + 1).toNat)), sp := s.sp + 1, pc := s.pc + 1 }) ∧
    (encode .php = [0x08] ∧
      Leaves .php s { s with mem := s.mem.set (0x100 + s.sp.toNat) (s.p ||| 0x30), sp := s.sp - 1, pc := s.pc + 1 }) ∧
    (encode .plp = [0x28] ∧
      Leaves .plp s { s with
        p := (s.mem.get (0x100 + (s.sp + 1).toNat) ||| 0x20) &&& 0xEF, sp := s.sp + 1, pc := s.pc + 1 })

/-- R225, R226, R35: `PHP` then `PLP` leaves the status as it was, where it was as R35 says. -/
def Obligations.PullStatusUndoesPushStatus : Prop :=
  ∀ s t u : State, StatusOk s.p → exec .php s = .next t → exec .plp t = .next u → u.p = s.p ∧ u.sp = s.sp

/-- R227 to R233: each flag instruction sets or clears its one bit, never toggles it, and changes nothing else (log
entries 14 and 15). -/
def Obligations.FlagInstructions : Prop :=
  ∀ s : State,
    (encode .clc = [0x18] ∧ Leaves .clc s { s with p := s.p &&& ~~~0x01, pc := s.pc + 1 }) ∧
    (encode .sec = [0x38] ∧ Leaves .sec s { s with p := s.p ||| 0x01, pc := s.pc + 1 }) ∧
    (encode .cld = [0xD8] ∧ Leaves .cld s { s with p := s.p &&& ~~~0x08, pc := s.pc + 1 }) ∧
    (encode .sed = [0xF8] ∧ Leaves .sed s { s with p := s.p ||| 0x08, pc := s.pc + 1 }) ∧
    (encode .cli = [0x58] ∧ Leaves .cli s { s with p := s.p &&& ~~~0x04, pc := s.pc + 1 }) ∧
    (encode .sei = [0x78] ∧ Leaves .sei s { s with p := s.p ||| 0x04, pc := s.pc + 1 }) ∧
    (encode .clv = [0xB8] ∧ Leaves .clv s { s with p := s.p &&& ~~~0x40, pc := s.pc + 1 })

/-- R234, R258, R259, R260: the no-operation forms change nothing but `pc`; `DOP` and `TOP` touch no operand address, so
they complete whatever it is (D16, log entry 17). -/
def Obligations.NoOperationForms : Prop :=
  ∀ (op : Byte) (m : Operand) (ad : Addressing) (s : State),
    Leaves .nop s { s with pc := s.pc + 1 } ∧
    Leaves (.nopStar op) s { s with pc := s.pc + 1 } ∧
    (m.mode ∈ [.immediate, .zeroPage, .zeroPageX] → Leaves (.dop op m) s { s with pc := s.pc + 2 }) ∧
    (ad.mode ∈ [.absolute, .absoluteX] → Leaves (.top op ad) s { s with pc := s.pc + 3 })

/-- R250, R271: `LAX` loads `A` and `X`; `LAR`, where the unstable instructions have their meaning, puts the operand AND
`SP` into `A`, `X` and `SP`. -/
def Obligations.LoadsOfTwoRegisters : Prop :=
  ∀ (ad : Addressing) (w : Word) (s : State),
    ReadsInto (.lax ad) (.mem ad) s (fun v u => { u with a := v, x := v, p := setNZ s.p v }) ∧
    (s.cfg.unstableStores = .asSpecified →
      ReadsInto (.lar w) (.mem (.aby w)) s (fun v u =>
        { u with a := v &&& s.sp, x := v &&& s.sp, sp := v &&& s.sp, p := setNZ s.p (v &&& s.sp) }))

/-- R252 to R257, R274: the read-modify-write compositions: one read, one write, and the second half uses the value
written (D13, log entry 16). -/
def Obligations.CompositionsUseTheWrittenValue : Prop :=
  ∀ (ad : Addressing) (s : State),
    ModifiesTo (.dcp ad) ad s (fun v => v - 1) (fun v => { s with p := compareStatus s.p s.a (v - 1) }) ∧
    ModifiesTo (.isb ad) ad s (fun v => v + 1) (fun v => { s with
      a := addResult s.a ((v + 1) ^^^ 0xFF) (flagC s.p), p := addStatus s.p s.a ((v + 1) ^^^ 0xFF) (flagC s.p) }) ∧
    ModifiesTo (.slo ad) ad s (fun v => v <<< 1) (fun v => { s with
      a := s.a ||| v <<< 1, p := setNZ (putC s.p (v.getLsbD 7)) (s.a ||| v <<< 1) }) ∧
    ModifiesTo (.rla ad) ad s (fun v => v <<< 1 ||| carryByte (flagC s.p)) (fun v => { s with
      a := s.a &&& (v <<< 1 ||| carryByte (flagC s.p))
      p := setNZ (putC s.p (v.getLsbD 7)) (s.a &&& (v <<< 1 ||| carryByte (flagC s.p))) }) ∧
    ModifiesTo (.sre ad) ad s (fun v => v >>> 1) (fun v => { s with
      a := s.a ^^^ v >>> 1, p := setNZ (putC s.p (v.getLsbD 0)) (s.a ^^^ v >>> 1) }) ∧
    ModifiesTo (.rra ad) ad s (fun v => v >>> 1 ||| carryByte (flagC s.p) <<< 7) (fun v => { s with
      a := addResult s.a (v >>> 1 ||| carryByte (flagC s.p) <<< 7) (v.getLsbD 0)
      p := addStatus s.p s.a (v >>> 1 ||| carryByte (flagC s.p) <<< 7) (v.getLsbD 0) })

/-- R262 to R266: the Immediate-operand combinations (semantics from general knowledge, log entry 13); `ATX_MAGIC` is
a free value (log entry 11). -/
def Obligations.ImmediateCombinations : Prop :=
  ∀ (op b : Byte) (s : State),
    Leaves (.aac op b) s { s with
      a := s.a &&& b, p := putC (setNZ s.p (s.a &&& b)) ((s.a &&& b).getLsbD 7), pc := s.pc + 2 } ∧
    (∃ r, r = (s.a &&& b) >>> 1 ||| carryByte (flagC s.p) <<< 7 ∧
      Leaves (.arr b) s { s with
        a := r, p := putV (putC (setNZ s.p r) (r.getLsbD 6)) (r.getLsbD 6 ^^ r.getLsbD 5), pc := s.pc + 2 }) ∧
    Leaves (.asr b) s { s with
      a := (s.a &&& b) >>> 1
      p := setNZ (putC s.p ((s.a &&& b).getLsbD 0)) ((s.a &&& b) >>> 1), pc := s.pc + 2 } ∧
    Leaves (.axs b) s { s with
      x := (s.a &&& s.x) - b
      p := setNZ (putC s.p (decide (b.toNat ≤ (s.a &&& s.x).toNat))) ((s.a &&& s.x) - b), pc := s.pc + 2 } ∧
    (∃ r, r = (s.a ||| Config.atxMagic) &&& b ∧
      Leaves (.atx b) s { s with a := r, x := r, p := setNZ s.p r, pc := s.pc + 2 })

/-- R267 to R270: the unstable stores, where they have their meaning, AND the stored value with the high byte of the
base address plus one; `XAS` also sets `SP`. Semantics from general knowledge (log entry 12). -/
def Obligations.UnstableStoresMaskWithHighByte : Prop :=
  ∀ (ad : Addressing) (w : Word) (s : State), s.cfg.unstableStores = .asSpecified →
    StoresTo (.axa ad) ad s s (s.a &&& s.x &&& (hi (operandBase ad s) + 1)) ∧
    StoresTo (.sxa w) (.aby w) s s (s.x &&& (hi w + 1)) ∧
    StoresTo (.sya w) (.abx w) s s (s.y &&& (hi w + 1)) ∧
    StoresTo (.xas w) (.aby w) s { s with sp := s.a &&& s.x } (s.a &&& s.x &&& (hi w + 1))

/-- D15: under `UNSTABLE_STORES = refuse` the five unstable instructions are refused by name. -/
def Obligations.UnstableInstructionsRefusedWhenConfigured : Prop :=
  ∀ (ad : Addressing) (w : Word) (s : State), s.cfg.unstableStores = .refuse →
    exec (.axa ad) s = .refused (.unstableStores "AXA") ∧ exec (.sxa w) s = .refused (.unstableStores "SXA") ∧
    exec (.sya w) s = .refused (.unstableStores "SYA") ∧ exec (.xas w) s = .refused (.unstableStores "XAS") ∧
    exec (.lar w) s = .refused (.unstableStores "LAR")

/-- R272, R273, R304, R305: `KIL` and `XAA` always raise `KilOrUnstableOpcode` with their opcode byte and `pc0`, after
no hook call of their own. -/
def Obligations.KilAndXaaAreFatal : Prop :=
  ∀ (op b : Byte) (s : State),
    exec (.kil op) s = .fault (.fatal (.kilOrUnstableOpcode op s.pc) s.ppuCalls) ∧
    exec (.xaa (op, b)) s = .fault (.fatal (.kilOrUnstableOpcode op s.pc) s.ppuCalls) ∧
    ((Instr.xaa (op, b)).wellFormed = true ↔ op = 0x8B) ∧ encode (.xaa (0x8B, b)) = [0x8B, b] ∧
    ((Instr.kil op).wellFormed = true ↔
      op ∈ [0x02, 0x12, 0x22, 0x32, 0x42, 0x52, 0x62, 0x72, 0x92, 0xB2, 0xD2, 0xF2])

/-- R136, R302, R303, R305: the data faults, by class, each with the hook calls made up to it: a read-class or
read-modify-write operand in the unmapped window is an unmapped read, a store there an unmapped write, a store or
read-modify-write in the PRG window a PRG-ROM write. `AXA SXA SYA XAS LAR` fault so where they have their meaning
(D15); every other instruction does in every configuration. -/
def Obligations.DataAccessFaults : Prop :=
  ∀ (i : Instr) (ad : Addressing) (s : State), (isUnstable i = true → s.cfg.unstableStores = .asSpecified) →
    (readOperand i = some (.mem ad) ∨ modifyOperand i = some ad → InUnmapped (operandAddress ad s) →
      exec i s = .fault (.fatal (.unmappedAddress (operandAddress ad s) .read) s.ppuCalls)) ∧
    (storeOperand i = some ad → InUnmapped (operandAddress ad s) →
      exec i s = .fault (.fatal (.unmappedAddress (operandAddress ad s) .write) s.ppuCalls)) ∧
    (storeOperand i = some ad ∨ modifyOperand i = some ad → InPrg (operandAddress ad s) →
      exec i s = .fault (.fatal (.prgRomWrite (operandAddress ad s)) s.ppuCalls))

/-! ### Fetching through the bus -/

/-- R65, R120, R345: every byte of an instruction is read through the bus, wherever it lies: under this machine's
table a row that reads no operand byte runs its instruction after the read of the opcode byte, one that reads one or
two after the reads of those, in address order. Code in the PPU window is nothing special (U21): with the null hook
every byte there is `0x00`, and a step with `pc` in `0x2000` to `0x3FFF`, where the table gives `0x00` to `BRK`, as
the default does, executes `BRK` after one recorded hook read (the record is the model's own field, log entry 10), and
so halts the run or takes the vector. -/
def Obligations.StepReadsInstructionThroughTheBus : Prop :=
  ∀ s : State, s.run = .running →
    (∀ op u row, read8 s.pc s = .ok op u → optableRow s.cfg.optable op = some row → row.hasRule = true →
      (operandBytesRead row = 0 →
        ∃ i b rest, decodeWith s.cfg.optable [op, b] = .ok (i, rest) ∧ StepsAs s i u) ∧
      (operandBytesRead row = 1 → ∀ b v, read8 (s.pc + 1) u = .ok b v →
        ∃ i, decodeWith s.cfg.optable [op, b] = .ok (i, []) ∧ StepsAs s i v) ∧
      (operandBytesRead row = 2 → ∀ l v h w, read8 (s.pc + 1) u = .ok l v → read8 (s.pc + 2) v = .ok h w →
        ∃ i, decodeWith s.cfg.optable [op, l, h] = .ok (i, []) ∧ StepsAs s i w)) ∧
    (∀ row, InPpu s.pc → s.cfg.ppu = .null → optableRow s.cfg.optable 0x00 = some row → row.mnemonic = .brk →
      row.mode = .implied →
      StepsAs s .brk { s with ppuCalls := .read (s.pc.setWidth 3) :: s.ppuCalls } ∧
      (s.cfg.brkMode = .halt → ∃ c,
        step s = .next { s with run := .halted, ppuCalls := .read (s.pc.setWidth 3) :: s.ppuCalls, cycles := c }) ∧
      (s.cfg.brkMode = .vectored → ∃ t, step s = .next t ∧ t.run = .running ∧ t.sp = s.sp - 3 ∧
        read16 0xFFFE s = .ok t.pc s ∧ t.ppuCalls = .read (s.pc.setWidth 3) :: s.ppuCalls))
end

