-- ==== Sys2Proof/Laws/State.lean ====
section
/-! SUPPORT. One lemma per field per named state update, true by `rfl`, so that no later proof unfolds a record
update. -/

namespace Sys2Proof.Machine

/-! ### `logPpu` -/

@[simp] theorem logPpu_a (s : State) (c : PpuCall) : (logPpu s c).a = s.a := rfl
@[simp] theorem logPpu_x (s : State) (c : PpuCall) : (logPpu s c).x = s.x := rfl
@[simp] theorem logPpu_y (s : State) (c : PpuCall) : (logPpu s c).y = s.y := rfl
@[simp] theorem logPpu_sp (s : State) (c : PpuCall) : (logPpu s c).sp = s.sp := rfl
@[simp] theorem logPpu_pc (s : State) (c : PpuCall) : (logPpu s c).pc = s.pc := rfl
@[simp] theorem logPpu_p (s : State) (c : PpuCall) : (logPpu s c).p = s.p := rfl
@[simp] theorem logPpu_mem (s : State) (c : PpuCall) : (logPpu s c).mem = s.mem := rfl
@[simp] theorem logPpu_run (s : State) (c : PpuCall) : (logPpu s c).run = s.run := rfl
@[simp] theorem logPpu_cycles (s : State) (c : PpuCall) : (logPpu s c).cycles = s.cycles := rfl
@[simp] theorem logPpu_cfg (s : State) (c : PpuCall) : (logPpu s c).cfg = s.cfg := rfl
@[simp] theorem logPpu_ppuCalls (s : State) (c : PpuCall) : (logPpu s c).ppuCalls = c :: s.ppuCalls := rfl

/-! ### `push8` -/

@[simp] theorem push8_a (s : State) (v : Byte) : (push8 v s).a = s.a := rfl
@[simp] theorem push8_x (s : State) (v : Byte) : (push8 v s).x = s.x := rfl
@[simp] theorem push8_y (s : State) (v : Byte) : (push8 v s).y = s.y := rfl
@[simp] theorem push8_sp (s : State) (v : Byte) : (push8 v s).sp = s.sp - 1 := rfl
@[simp] theorem push8_pc (s : State) (v : Byte) : (push8 v s).pc = s.pc := rfl
@[simp] theorem push8_p (s : State) (v : Byte) : (push8 v s).p = s.p := rfl
@[simp] theorem push8_mem (s : State) (v : Byte) : (push8 v s).mem = s.mem.set (stackCell s.sp) v := rfl
@[simp] theorem push8_run (s : State) (v : Byte) : (push8 v s).run = s.run := rfl
@[simp] theorem push8_cycles (s : State) (v : Byte) : (push8 v s).cycles = s.cycles := rfl
@[simp] theorem push8_cfg (s : State) (v : Byte) : (push8 v s).cfg = s.cfg := rfl
@[simp] theorem push8_ppuCalls (s : State) (v : Byte) : (push8 v s).ppuCalls = s.ppuCalls := rfl

/-! ### `pull8` -/

@[simp] theorem pull8_a (s : State) : (pull8 s).a = s.a := rfl
@[simp] theorem pull8_x (s : State) : (pull8 s).x = s.x := rfl
@[simp] theorem pull8_y (s : State) : (pull8 s).y = s.y := rfl
@[simp] theorem pull8_sp (s : State) : (pull8 s).sp = s.sp + 1 := rfl
@[simp] theorem pull8_pc (s : State) : (pull8 s).pc = s.pc := rfl
@[simp] theorem pull8_p (s : State) : (pull8 s).p = s.p := rfl
@[simp] theorem pull8_mem (s : State) : (pull8 s).mem = s.mem := rfl
@[simp] theorem pull8_run (s : State) : (pull8 s).run = s.run := rfl
@[simp] theorem pull8_cycles (s : State) : (pull8 s).cycles = s.cycles := rfl
@[simp] theorem pull8_cfg (s : State) : (pull8 s).cfg = s.cfg := rfl
@[simp] theorem pull8_ppuCalls (s : State) : (pull8 s).ppuCalls = s.ppuCalls := rfl

/-! ### `push16` -/

@[simp] theorem push16_a (s : State) (w : Word) : (push16 w s).a = s.a := rfl
@[simp] theorem push16_x (s : State) (w : Word) : (push16 w s).x = s.x := rfl
@[simp] theorem push16_y (s : State) (w : Word) : (push16 w s).y = s.y := rfl
@[simp] theorem push16_sp (s : State) (w : Word) : (push16 w s).sp = s.sp - 1 - 1 := rfl
@[simp] theorem push16_pc (s : State) (w : Word) : (push16 w s).pc = s.pc := rfl
@[simp] theorem push16_p (s : State) (w : Word) : (push16 w s).p = s.p := rfl
@[simp] theorem push16_mem (s : State) (w : Word) : (push16 w s).mem =
    (s.mem.set (stackCell s.sp) (hi w)).set (stackCell (s.sp - 1)) (lo w) := rfl
@[simp] theorem push16_run (s : State) (w : Word) : (push16 w s).run = s.run := rfl
@[simp] theorem push16_cycles (s : State) (w : Word) : (push16 w s).cycles = s.cycles := rfl
@[simp] theorem push16_cfg (s : State) (w : Word) : (push16 w s).cfg = s.cfg := rfl
@[simp] theorem push16_ppuCalls (s : State) (w : Word) : (push16 w s).ppuCalls = s.ppuCalls := rfl

/-! ### `pull16` -/

@[simp] theorem pull16_a (s : State) : (pull16 s).a = s.a := rfl
@[simp] theorem pull16_x (s : State) : (pull16 s).x = s.x := rfl
@[simp] theorem pull16_y (s : State) : (pull16 s).y = s.y := rfl
@[simp] theorem pull16_sp (s : State) : (pull16 s).sp = s.sp + 1 + 1 := rfl
@[simp] theorem pull16_pc (s : State) : (pull16 s).pc = s.pc := rfl
@[simp] theorem pull16_p (s : State) : (pull16 s).p = s.p := rfl
@[simp] theorem pull16_mem (s : State) : (pull16 s).mem = s.mem := rfl
@[simp] theorem pull16_run (s : State) : (pull16 s).run = s.run := rfl
@[simp] theorem pull16_cycles (s : State) : (pull16 s).cycles = s.cycles := rfl
@[simp] theorem pull16_cfg (s : State) : (pull16 s).cfg = s.cfg := rfl
@[simp] theorem pull16_ppuCalls (s : State) : (pull16 s).ppuCalls = s.ppuCalls := rfl

/-! ### `advance` -/

@[simp] theorem advance_a (s : State) (m : Mode) : (advance m s).a = s.a := rfl
@[simp] theorem advance_x (s : State) (m : Mode) : (advance m s).x = s.x := rfl
@[simp] theorem advance_y (s : State) (m : Mode) : (advance m s).y = s.y := rfl
@[simp] theorem advance_sp (s : State) (m : Mode) : (advance m s).sp = s.sp := rfl
@[simp] theorem advance_pc (s : State) (m : Mode) : (advance m s).pc = s.pc + BitVec.ofNat 16 m.size := rfl
@[simp] theorem advance_p (s : State) (m : Mode) : (advance m s).p = s.p := rfl
@[simp] theorem advance_mem (s : State) (m : Mode) : (advance m s).mem = s.mem := rfl
@[simp] theorem advance_run (s : State) (m : Mode) : (advance m s).run = s.run := rfl
@[simp] theorem advance_cycles (s : State) (m : Mode) : (advance m s).cycles = s.cycles := rfl
@[simp] theorem advance_cfg (s : State) (m : Mode) : (advance m s).cfg = s.cfg := rfl
@[simp] theorem advance_ppuCalls (s : State) (m : Mode) : (advance m s).ppuCalls = s.ppuCalls := rfl

/-! ### `jumpTo` -/

@[simp] theorem jumpTo_a (s : State) (w : Word) : (jumpTo w s).a = s.a := rfl
@[simp] theorem jumpTo_x (s : State) (w : Word) : (jumpTo w s).x = s.x := rfl
@[simp] theorem jumpTo_y (s : State) (w : Word) : (jumpTo w s).y = s.y := rfl
@[simp] theorem jumpTo_sp (s : State) (w : Word) : (jumpTo w s).sp = s.sp := rfl
@[simp] theorem jumpTo_pc (s : State) (w : Word) : (jumpTo w s).pc = w := rfl
@[simp] theorem jumpTo_p (s : State) (w : Word) : (jumpTo w s).p = s.p := rfl
@[simp] theorem jumpTo_mem (s : State) (w : Word) : (jumpTo w s).mem = s.mem := rfl
@[simp] theorem jumpTo_run (s : State) (w : Word) : (jumpTo w s).run = s.run := rfl
@[simp] theorem jumpTo_cycles (s : State) (w : Word) : (jumpTo w s).cycles = s.cycles := rfl
@[simp] theorem jumpTo_cfg (s : State) (w : Word) : (jumpTo w s).cfg = s.cfg := rfl
@[simp] theorem jumpTo_ppuCalls (s : State) (w : Word) : (jumpTo w s).ppuCalls = s.ppuCalls := rfl

/-! ### `haltRun` -/

@[simp] theorem haltRun_a (s : State) : (haltRun s).a = s.a := rfl
@[simp] theorem haltRun_x (s : State) : (haltRun s).x = s.x := rfl
@[simp] theorem haltRun_y (s : State) : (haltRun s).y = s.y := rfl
@[simp] theorem haltRun_sp (s : State) : (haltRun s).sp = s.sp := rfl
@[simp] theorem haltRun_pc (s : State) : (haltRun s).pc = s.pc := rfl
@[simp] theorem haltRun_p (s : State) : (haltRun s).p = s.p := rfl
@[simp] theorem haltRun_mem (s : State) : (haltRun s).mem = s.mem := rfl
@[simp] theorem haltRun_run (s : State) : (haltRun s).run = .halted := rfl
@[simp] theorem haltRun_cycles (s : State) : (haltRun s).cycles = s.cycles := rfl
@[simp] theorem haltRun_cfg (s : State) : (haltRun s).cfg = s.cfg := rfl
@[simp] theorem haltRun_ppuCalls (s : State) : (haltRun s).ppuCalls = s.ppuCalls := rfl

/-! ### `addToA` -/

@[simp] theorem addToA_a (s : State) (m : Byte) (c : Bool) : (addToA m c s).a = addResult s.a m c := rfl
@[simp] theorem addToA_x (s : State) (m : Byte) (c : Bool) : (addToA m c s).x = s.x := rfl
@[simp] theorem addToA_y (s : State) (m : Byte) (c : Bool) : (addToA m c s).y = s.y := rfl
@[simp] theorem addToA_sp (s : State) (m : Byte) (c : Bool) : (addToA m c s).sp = s.sp := rfl
@[simp] theorem addToA_pc (s : State) (m : Byte) (c : Bool) : (addToA m c s).pc = s.pc := rfl
@[simp] theorem addToA_p (s : State) (m : Byte) (c : Bool) : (addToA m c s).p = addStatus s.p s.a m c := rfl
@[simp] theorem addToA_mem (s : State) (m : Byte) (c : Bool) : (addToA m c s).mem = s.mem := rfl
@[simp] theorem addToA_run (s : State) (m : Byte) (c : Bool) : (addToA m c s).run = s.run := rfl
@[simp] theorem addToA_cycles (s : State) (m : Byte) (c : Bool) : (addToA m c s).cycles = s.cycles := rfl
@[simp] theorem addToA_cfg (s : State) (m : Byte) (c : Bool) : (addToA m c s).cfg = s.cfg := rfl
@[simp] theorem addToA_ppuCalls (s : State) (m : Byte) (c : Bool) : (addToA m c s).ppuCalls = s.ppuCalls := rfl

/-! ### `subFromA` -/

@[simp] theorem subFromA_a (s : State) (m : Byte) : (subFromA m s).a = addResult s.a (subOperand m) (flagC s.p) := rfl
@[simp] theorem subFromA_x (s : State) (m : Byte) : (subFromA m s).x = s.x := rfl
@[simp] theorem subFromA_y (s : State) (m : Byte) : (subFromA m s).y = s.y := rfl
@[simp] theorem subFromA_sp (s : State) (m : Byte) : (subFromA m s).sp = s.sp := rfl
@[simp] theorem subFromA_pc (s : State) (m : Byte) : (subFromA m s).pc = s.pc := rfl
@[simp] theorem subFromA_p (s : State) (m : Byte) : (subFromA m s).p = addStatus s.p s.a (subOperand m) (flagC s.p) := rfl
@[simp] theorem subFromA_mem (s : State) (m : Byte) : (subFromA m s).mem = s.mem := rfl
@[simp] theorem subFromA_run (s : State) (m : Byte) : (subFromA m s).run = s.run := rfl
@[simp] theorem subFromA_cycles (s : State) (m : Byte) : (subFromA m s).cycles = s.cycles := rfl
@[simp] theorem subFromA_cfg (s : State) (m : Byte) : (subFromA m s).cfg = s.cfg := rfl
@[simp] theorem subFromA_ppuCalls (s : State) (m : Byte) : (subFromA m s).ppuCalls = s.ppuCalls := rfl

/-! ### `logicAfterShift` -/

@[simp] theorem logicAfterShift_a (s : State) (out : Bool) (r : Byte) : (logicAfterShift out r s).a = r := rfl
@[simp] theorem logicAfterShift_x (s : State) (out : Bool) (r : Byte) : (logicAfterShift out r s).x = s.x := rfl
@[simp] theorem logicAfterShift_y (s : State) (out : Bool) (r : Byte) : (logicAfterShift out r s).y = s.y := rfl
@[simp] theorem logicAfterShift_sp (s : State) (out : Bool) (r : Byte) : (logicAfterShift out r s).sp = s.sp := rfl
@[simp] theorem logicAfterShift_pc (s : State) (out : Bool) (r : Byte) : (logicAfterShift out r s).pc = s.pc := rfl
@[simp] theorem logicAfterShift_p (s : State) (out : Bool) (r : Byte) : (logicAfterShift out r s).p = shiftStatus s.p out r := rfl
@[simp] theorem logicAfterShift_mem (s : State) (out : Bool) (r : Byte) : (logicAfterShift out r s).mem = s.mem := rfl
@[simp] theorem logicAfterShift_run (s : State) (out : Bool) (r : Byte) : (logicAfterShift out r s).run = s.run := rfl
@[simp] theorem logicAfterShift_cycles (s : State) (out : Bool) (r : Byte) : (logicAfterShift out r s).cycles = s.cycles := rfl
@[simp] theorem logicAfterShift_cfg (s : State) (out : Bool) (r : Byte) : (logicAfterShift out r s).cfg = s.cfg := rfl
@[simp] theorem logicAfterShift_ppuCalls (s : State) (out : Bool) (r : Byte) : (logicAfterShift out r s).ppuCalls = s.ppuCalls := rfl

/-! ### `takeBreak` -/

@[simp] theorem takeBreak_a (s : State) : (takeBreak s).a = s.a := rfl
@[simp] theorem takeBreak_x (s : State) : (takeBreak s).x = s.x := rfl
@[simp] theorem takeBreak_y (s : State) : (takeBreak s).y = s.y := rfl
@[simp] theorem takeBreak_sp (s : State) : (takeBreak s).sp = s.sp - 1 - 1 - 1 := rfl
@[simp] theorem takeBreak_p (s : State) : (takeBreak s).p = putI s.p true := rfl
@[simp] theorem takeBreak_mem (s : State) : (takeBreak s).mem =
    ((s.mem.set (stackCell s.sp) (hi (s.pc + 2))).set (stackCell (s.sp - 1)) (lo (s.pc + 2))).set
      (stackCell (s.sp - 1 - 1)) (pushedStatus s.p) := rfl
@[simp] theorem takeBreak_run (s : State) : (takeBreak s).run = s.run := rfl
@[simp] theorem takeBreak_cycles (s : State) : (takeBreak s).cycles = s.cycles := rfl
@[simp] theorem takeBreak_cfg (s : State) : (takeBreak s).cfg = s.cfg := rfl
@[simp] theorem takeBreak_ppuCalls (s : State) : (takeBreak s).ppuCalls = s.ppuCalls := rfl

/-! ### `returnFromInterrupt` -/

@[simp] theorem returnFromInterrupt_a (s : State) : (returnFromInterrupt s).a = s.a := rfl
@[simp] theorem returnFromInterrupt_x (s : State) : (returnFromInterrupt s).x = s.x := rfl
@[simp] theorem returnFromInterrupt_y (s : State) : (returnFromInterrupt s).y = s.y := rfl
@[simp] theorem returnFromInterrupt_sp (s : State) : (returnFromInterrupt s).sp = s.sp + 1 + 1 + 1 := rfl
@[simp] theorem returnFromInterrupt_pc (s : State) : (returnFromInterrupt s).pc = pulledWord (pull8 s) := rfl
@[simp] theorem returnFromInterrupt_p (s : State) : (returnFromInterrupt s).p = pulledStatus (pulledByte s) := rfl
@[simp] theorem returnFromInterrupt_mem (s : State) : (returnFromInterrupt s).mem = s.mem := rfl
@[simp] theorem returnFromInterrupt_run (s : State) : (returnFromInterrupt s).run = s.run := rfl
@[simp] theorem returnFromInterrupt_cycles (s : State) : (returnFromInterrupt s).cycles = s.cycles := rfl
@[simp] theorem returnFromInterrupt_cfg (s : State) : (returnFromInterrupt s).cfg = s.cfg := rfl
@[simp] theorem returnFromInterrupt_ppuCalls (s : State) : (returnFromInterrupt s).ppuCalls = s.ppuCalls := rfl

/-! ### `resetSequence` -/

@[simp] theorem resetSequence_a (s : State) : (resetSequence s).a = 0x00 := rfl
@[simp] theorem resetSequence_x (s : State) : (resetSequence s).x = 0x00 := rfl
@[simp] theorem resetSequence_y (s : State) : (resetSequence s).y = 0x00 := rfl
@[simp] theorem resetSequence_sp (s : State) : (resetSequence s).sp = 0xFD := rfl
@[simp] theorem resetSequence_p (s : State) : (resetSequence s).p = 0x24 := rfl
@[simp] theorem resetSequence_mem (s : State) : (resetSequence s).mem = s.mem := rfl
@[simp] theorem resetSequence_run (s : State) : (resetSequence s).run = .running := rfl
@[simp] theorem resetSequence_cycles (s : State) : (resetSequence s).cycles = Config.cyclesAfterReset s.cycles := rfl
@[simp] theorem resetSequence_cfg (s : State) : (resetSequence s).cfg = s.cfg := rfl
@[simp] theorem resetSequence_ppuCalls (s : State) : (resetSequence s).ppuCalls = s.ppuCalls := rfl

end Sys2Proof.Machine
end

