-- ==== Sys2Proof/Laws/Memory.lean ====
section
/-! SUPPORT. The canonical memory: what a cell reads after each operation, and that every operation keeps the form. -/

namespace Sys2Proof.Machine

@[simp] theorem Memory.get_nil (k : Nat) : Memory.get [] k = Memory.blank k := rfl

@[simp] theorem Memory.get_cons (k' : Nat) (v : Byte) (m : Memory) (k : Nat) :
    Memory.get ((k', v) :: m) k = if k' = k then v else Memory.get m k := rfl

/-- A cell that is not listed reads as `Memory.blank`. -/
theorem Memory.get_of_not_mem {m : Memory} {k : Nat} (h : ∀ c ∈ m, c.1 ≠ k) : m.get k = Memory.blank k := by
  induction m with
  | nil => rfl
  | cons c m ih =>
    obtain ⟨k', v⟩ := c
    have hk : k' ≠ k := h (k', v) (by simp)
    simp [hk, ih fun c hc => h c (by simp [hc])]

theorem Memory.erase_cons (k' : Nat) (v : Byte) (m : Memory) (k : Nat) :
    Memory.erase ((k', v) :: m) k = if k' = k then Memory.erase m k else (k', v) :: Memory.erase m k := by
  by_cases h : k' = k <;> simp [Memory.erase, h]

theorem Memory.mem_erase {m : Memory} {k : Nat} {c : Host.Cell} : c ∈ m.erase k ↔ c ∈ m ∧ c.1 ≠ k := by
  simp [Memory.erase]

theorem Memory.get_erase_same (m : Memory) (k : Nat) : (m.erase k).get k = Memory.blank k :=
  Memory.get_of_not_mem fun _ hc => (Memory.mem_erase.1 hc).2

theorem Memory.get_erase_ne (m : Memory) {k j : Nat} (h : j ≠ k) : (m.erase k).get j = m.get j := by
  induction m with
  | nil => rfl
  | cons c m ih =>
    obtain ⟨k', v⟩ := c
    rw [Memory.erase_cons]
    by_cases hk : k' = k
    · have : k' ≠ j := fun e => h (e ▸ hk)
      simp [hk, ih, hk ▸ this]
    · simp [hk, ih]

theorem Memory.mem_insert {m : Memory} {k : Nat} {v : Byte} {c : Host.Cell} :
    c ∈ Memory.insert m k v ↔ c = (k, v) ∨ c ∈ m := by
  induction m with
  | nil => simp [Memory.insert]
  | cons d m ih =>
    unfold Memory.insert
    split
    · simp
    · simp only [List.mem_cons, ih]; tauto

theorem Memory.get_insert_same {m : Memory} {k : Nat} (v : Byte) (h : ∀ c ∈ m, c.1 ≠ k) :
    (Memory.insert m k v).get k = v := by
  induction m with
  | nil => simp [Memory.insert]
  | cons d m ih =>
    obtain ⟨k', w⟩ := d
    have hk : k' ≠ k := h (k', w) (by simp)
    unfold Memory.insert
    split
    · simp
    · simp [hk, ih fun c hc => h c (by simp [hc])]

theorem Memory.get_insert_ne (m : Memory) {k j : Nat} (v : Byte) (h : j ≠ k) :
    (Memory.insert m k v).get j = m.get j := by
  have h' : k ≠ j := fun e => h e.symm
  induction m with
  | nil => simp [Memory.insert, h']
  | cons d m ih =>
    obtain ⟨k', w⟩ := d
    unfold Memory.insert
    split
    · simp [h']
    · simp [ih]

/-- A read of the cell written gives the byte written. -/
theorem Memory.get_set_same (m : Memory) (k : Nat) (v : Byte) : (m.set k v).get k = v := by
  unfold Memory.set
  split
  · rename_i h; rw [Memory.get_erase_same, h]
  · exact Memory.get_insert_same v fun _ hc => (Memory.mem_erase.1 hc).2

/-- A write leaves every other cell alone. -/
theorem Memory.get_set_ne (m : Memory) {k j : Nat} (v : Byte) (h : j ≠ k) : (m.set k v).get j = m.get j := by
  unfold Memory.set
  split
  · exact Memory.get_erase_ne m h
  · rw [Memory.get_insert_ne _ v h, Memory.get_erase_ne m h]

theorem Memory.get_set (m : Memory) (k j : Nat) (v : Byte) :
    (m.set k v).get j = if j = k then v else m.get j := by
  split
  · rename_i h; rw [h, Memory.get_set_same]
  · rename_i h; exact Memory.get_set_ne m v h

/-- Every entry of a written memory is the written one or an old one. -/
theorem Memory.mem_set {m : Memory} {k : Nat} {v : Byte} {c : Host.Cell} (h : c ∈ m.set k v) :
    c = (k, v) ∨ c ∈ m := by
  unfold Memory.set at h
  split at h
  · exact .inr (Memory.mem_erase.1 h).1
  · exact (Memory.mem_insert.1 h).imp_right fun h => (Memory.mem_erase.1 h).1

theorem Memory.erase_wf {m : Memory} (k : Nat) (h : m.wf) : (m.erase k).wf :=
  ⟨h.1.filter _, fun c hc => h.2 c (Memory.mem_erase.1 hc).1⟩

theorem Memory.insert_wf {m : Memory} {k : Nat} {v : Byte} (h : m.wf) (hk : ∀ c ∈ m, c.1 ≠ k)
    (hv : v ≠ Memory.blank k) : (Memory.insert m k v).wf := by
  refine ⟨?_, fun c hc => ?_⟩
  · induction m with
    | nil => simp [Memory.insert]
    | cons d m ih =>
      obtain ⟨hd, hm⟩ := List.pairwise_cons.1 h.1
      unfold Memory.insert
      split
      · rename_i hlt
        exact List.pairwise_cons.2
          ⟨fun c hc => (List.mem_cons.1 hc).elim (fun e => e ▸ hlt) fun hc => hlt.trans (hd c hc), h.1⟩
      · rename_i hle
        have hne : d.1 ≠ k := hk d (by simp)
        refine List.pairwise_cons.2
          ⟨fun c hc => ?_, ih ⟨hm, fun c hc => h.2 c (by simp [hc])⟩ fun c hc => hk c (by simp [hc])⟩
        rcases Memory.mem_insert.1 hc with rfl | hc
        · show d.1 < k; omega
        · exact hd c hc
  · rcases Memory.mem_insert.1 hc with rfl | hc
    · exact hv
    · exact h.2 c hc

/-- A write keeps the canonical form. -/
theorem Memory.set_wf {m : Memory} (k : Nat) (v : Byte) (h : m.wf) : (m.set k v).wf := by
  unfold Memory.set
  split
  · exact Memory.erase_wf k h
  · rename_i hv
    exact Memory.insert_wf (Memory.erase_wf k h) (fun _ hc => (Memory.mem_erase.1 hc).2) hv

/-- Every entry of a run of bytes lies in its range. -/
theorem Memory.mem_ofBytes {k : Nat} {vs : List Byte} {c : Host.Cell} (h : c ∈ Memory.ofBytes k vs) :
    k ≤ c.1 ∧ c.1 < k + vs.length ∧ c.2 ≠ Memory.blank c.1 := by
  induction vs generalizing k with
  | nil => simp [Memory.ofBytes] at h
  | cons v vs ih =>
    unfold Memory.ofBytes at h
    split at h
    · have := ih h; simp only [List.length_cons]; exact ⟨by omega, by omega, this.2.2⟩
    · rename_i hv
      rcases List.mem_cons.1 h with rfl | h
      · exact ⟨Nat.le_refl _, by simp, hv⟩
      · have := ih h; simp only [List.length_cons]; exact ⟨by omega, by omega, this.2.2⟩

/-- A run of bytes is in canonical form. -/
theorem Memory.ofBytes_wf (k : Nat) (vs : List Byte) : (Memory.ofBytes k vs).wf := by
  refine ⟨?_, fun c hc => (Memory.mem_ofBytes hc).2.2⟩
  induction vs generalizing k with
  | nil => simp [Memory.ofBytes]
  | cons v vs ih =>
    unfold Memory.ofBytes
    split
    · exact ih (k + 1)
    · exact List.pairwise_cons.2 ⟨fun c hc => (Memory.mem_ofBytes hc).1, ih (k + 1)⟩

/-- A run of bytes reads as its bytes. -/
theorem Memory.get_ofBytes (k : Nat) (vs : List Byte) (j : Nat) :
    (Memory.ofBytes k vs).get j = if k ≤ j then vs.getD (j - k) (Memory.blank j) else Memory.blank j := by
  induction vs generalizing k with
  | nil => simp [Memory.ofBytes]
  | cons v vs ih =>
    unfold Memory.ofBytes
    rcases Nat.lt_trichotomy j k with h | rfl | h
    · have h1 : ¬ k ≤ j := by omega
      have h2 : ¬ k + 1 ≤ j := by omega
      have h3 : k ≠ j := by omega
      simp only [h1, if_false]
      split <;> simp [ih, h2, h3]
    · split
      · rename_i hv; simp [ih, hv]
      · simp
    · obtain ⟨d, rfl⟩ : ∃ d, j = k + 1 + d := ⟨j - (k + 1), by omega⟩
      have h1 : k ≤ k + 1 + d := by omega
      have h2 : k + 1 ≤ k + 1 + d := by omega
      have h3 : k ≠ k + 1 + d := by omega
      have h4 : k + 1 + d - k = d + 1 := by omega
      have h5 : k + 1 + d - (k + 1) = d := by omega
      split <;> simp [ih, h2, h3, h4]

/-- Two memories put one after the other, the first holding lower cells, are in canonical form. -/
theorem Memory.append_wf {m n : Memory} (k : Nat) (hm : m.wf) (hn : n.wf) (lower : ∀ c ∈ m, c.1 < k)
    (upper : ∀ c ∈ n, k ≤ c.1) : Memory.wf (m ++ n) := by
  refine ⟨List.pairwise_append.2
    ⟨hm.1, hn.1, fun c hc d hd => lt_of_lt_of_le (lower c hc) (upper d hd)⟩, fun c hc => ?_⟩
  rcases List.mem_append.1 hc with hc | hc
  · exact hm.2 c hc
  · exact hn.2 c hc

/-- The cells of two memories put one after the other. -/
theorem Memory.get_append (m n : Memory) (k : Nat) :
    Memory.get (m ++ n) k = if (∃ c ∈ m, c.1 = k) then m.get k else Memory.get n k := by
  induction m with
  | nil => simp
  | cons c m ih =>
    obtain ⟨k', v⟩ := c
    by_cases h : k' = k
    · simp [h]
    · simp [h, ih]

end Sys2Proof.Machine
end

