-- ==== Sys2Proof/Laws/Flags.lean ====
section
/-! SUPPORT. What each flag write does to each of the eight bits of `P` (10_state.md R26 to R35). -/

namespace Sys2Proof.Machine

/-- A flag write sets the bits of its mask and leaves the others. -/
theorem getLsbD_putFlag (mask p : Byte) (b : Bool) {i : Nat} (h : i < 8) :
    (putFlag mask p b).getLsbD i = if mask.getLsbD i then b else p.getLsbD i := by
  cases b <;>
    simp only [putFlag, Bool.false_eq_true, if_false, if_true, BitVec.getLsbD_and, BitVec.getLsbD_or, BitVec.getLsbD_not,
      h, decide_true, Bool.true_and] <;>
    cases mask.getLsbD i <;> simp

/-! ### `putC` -/

@[simp] theorem flagC_putC (p : Byte) (b : Bool) : flagC (putC p b) = b := by
  simpa [flagC, putC] using getLsbD_putFlag 0x1 p b (i := 0) (by decide)
@[simp] theorem flagZ_putC (p : Byte) (b : Bool) : flagZ (putC p b) = flagZ p := by
  simpa [flagZ, putC] using getLsbD_putFlag 0x1 p b (i := 1) (by decide)
@[simp] theorem flagI_putC (p : Byte) (b : Bool) : flagI (putC p b) = flagI p := by
  simpa [flagI, putC] using getLsbD_putFlag 0x1 p b (i := 2) (by decide)
@[simp] theorem flagD_putC (p : Byte) (b : Bool) : flagD (putC p b) = flagD p := by
  simpa [flagD, putC] using getLsbD_putFlag 0x1 p b (i := 3) (by decide)
@[simp] theorem flagB_putC (p : Byte) (b : Bool) : flagB (putC p b) = flagB p := by
  simpa [flagB, putC] using getLsbD_putFlag 0x1 p b (i := 4) (by decide)
@[simp] theorem flag5_putC (p : Byte) (b : Bool) : flag5 (putC p b) = flag5 p := by
  simpa [flag5, putC] using getLsbD_putFlag 0x1 p b (i := 5) (by decide)
@[simp] theorem flagV_putC (p : Byte) (b : Bool) : flagV (putC p b) = flagV p := by
  simpa [flagV, putC] using getLsbD_putFlag 0x1 p b (i := 6) (by decide)
@[simp] theorem flagN_putC (p : Byte) (b : Bool) : flagN (putC p b) = flagN p := by
  simpa [flagN, putC] using getLsbD_putFlag 0x1 p b (i := 7) (by decide)

/-! ### `putZ` -/

@[simp] theorem flagC_putZ (p : Byte) (b : Bool) : flagC (putZ p b) = flagC p := by
  simpa [flagC, putZ] using getLsbD_putFlag 0x2 p b (i := 0) (by decide)
@[simp] theorem flagZ_putZ (p : Byte) (b : Bool) : flagZ (putZ p b) = b := by
  simpa [flagZ, putZ] using getLsbD_putFlag 0x2 p b (i := 1) (by decide)
@[simp] theorem flagI_putZ (p : Byte) (b : Bool) : flagI (putZ p b) = flagI p := by
  simpa [flagI, putZ] using getLsbD_putFlag 0x2 p b (i := 2) (by decide)
@[simp] theorem flagD_putZ (p : Byte) (b : Bool) : flagD (putZ p b) = flagD p := by
  simpa [flagD, putZ] using getLsbD_putFlag 0x2 p b (i := 3) (by decide)
@[simp] theorem flagB_putZ (p : Byte) (b : Bool) : flagB (putZ p b) = flagB p := by
  simpa [flagB, putZ] using getLsbD_putFlag 0x2 p b (i := 4) (by decide)
@[simp] theorem flag5_putZ (p : Byte) (b : Bool) : flag5 (putZ p b) = flag5 p := by
  simpa [flag5, putZ] using getLsbD_putFlag 0x2 p b (i := 5) (by decide)
@[simp] theorem flagV_putZ (p : Byte) (b : Bool) : flagV (putZ p b) = flagV p := by
  simpa [flagV, putZ] using getLsbD_putFlag 0x2 p b (i := 6) (by decide)
@[simp] theorem flagN_putZ (p : Byte) (b : Bool) : flagN (putZ p b) = flagN p := by
  simpa [flagN, putZ] using getLsbD_putFlag 0x2 p b (i := 7) (by decide)

/-! ### `putI` -/

@[simp] theorem flagC_putI (p : Byte) (b : Bool) : flagC (putI p b) = flagC p := by
  simpa [flagC, putI] using getLsbD_putFlag 0x4 p b (i := 0) (by decide)
@[simp] theorem flagZ_putI (p : Byte) (b : Bool) : flagZ (putI p b) = flagZ p := by
  simpa [flagZ, putI] using getLsbD_putFlag 0x4 p b (i := 1) (by decide)
@[simp] theorem flagI_putI (p : Byte) (b : Bool) : flagI (putI p b) = b := by
  simpa [flagI, putI] using getLsbD_putFlag 0x4 p b (i := 2) (by decide)
@[simp] theorem flagD_putI (p : Byte) (b : Bool) : flagD (putI p b) = flagD p := by
  simpa [flagD, putI] using getLsbD_putFlag 0x4 p b (i := 3) (by decide)
@[simp] theorem flagB_putI (p : Byte) (b : Bool) : flagB (putI p b) = flagB p := by
  simpa [flagB, putI] using getLsbD_putFlag 0x4 p b (i := 4) (by decide)
@[simp] theorem flag5_putI (p : Byte) (b : Bool) : flag5 (putI p b) = flag5 p := by
  simpa [flag5, putI] using getLsbD_putFlag 0x4 p b (i := 5) (by decide)
@[simp] theorem flagV_putI (p : Byte) (b : Bool) : flagV (putI p b) = flagV p := by
  simpa [flagV, putI] using getLsbD_putFlag 0x4 p b (i := 6) (by decide)
@[simp] theorem flagN_putI (p : Byte) (b : Bool) : flagN (putI p b) = flagN p := by
  simpa [flagN, putI] using getLsbD_putFlag 0x4 p b (i := 7) (by decide)

/-! ### `putD` -/

@[simp] theorem flagC_putD (p : Byte) (b : Bool) : flagC (putD p b) = flagC p := by
  simpa [flagC, putD] using getLsbD_putFlag 0x8 p b (i := 0) (by decide)
@[simp] theorem flagZ_putD (p : Byte) (b : Bool) : flagZ (putD p b) = flagZ p := by
  simpa [flagZ, putD] using getLsbD_putFlag 0x8 p b (i := 1) (by decide)
@[simp] theorem flagI_putD (p : Byte) (b : Bool) : flagI (putD p b) = flagI p := by
  simpa [flagI, putD] using getLsbD_putFlag 0x8 p b (i := 2) (by decide)
@[simp] theorem flagD_putD (p : Byte) (b : Bool) : flagD (putD p b) = b := by
  simpa [flagD, putD] using getLsbD_putFlag 0x8 p b (i := 3) (by decide)
@[simp] theorem flagB_putD (p : Byte) (b : Bool) : flagB (putD p b) = flagB p := by
  simpa [flagB, putD] using getLsbD_putFlag 0x8 p b (i := 4) (by decide)
@[simp] theorem flag5_putD (p : Byte) (b : Bool) : flag5 (putD p b) = flag5 p := by
  simpa [flag5, putD] using getLsbD_putFlag 0x8 p b (i := 5) (by decide)
@[simp] theorem flagV_putD (p : Byte) (b : Bool) : flagV (putD p b) = flagV p := by
  simpa [flagV, putD] using getLsbD_putFlag 0x8 p b (i := 6) (by decide)
@[simp] theorem flagN_putD (p : Byte) (b : Bool) : flagN (putD p b) = flagN p := by
  simpa [flagN, putD] using getLsbD_putFlag 0x8 p b (i := 7) (by decide)

/-! ### `putV` -/

@[simp] theorem flagC_putV (p : Byte) (b : Bool) : flagC (putV p b) = flagC p := by
  simpa [flagC, putV] using getLsbD_putFlag 0x40 p b (i := 0) (by decide)
@[simp] theorem flagZ_putV (p : Byte) (b : Bool) : flagZ (putV p b) = flagZ p := by
  simpa [flagZ, putV] using getLsbD_putFlag 0x40 p b (i := 1) (by decide)
@[simp] theorem flagI_putV (p : Byte) (b : Bool) : flagI (putV p b) = flagI p := by
  simpa [flagI, putV] using getLsbD_putFlag 0x40 p b (i := 2) (by decide)
@[simp] theorem flagD_putV (p : Byte) (b : Bool) : flagD (putV p b) = flagD p := by
  simpa [flagD, putV] using getLsbD_putFlag 0x40 p b (i := 3) (by decide)
@[simp] theorem flagB_putV (p : Byte) (b : Bool) : flagB (putV p b) = flagB p := by
  simpa [flagB, putV] using getLsbD_putFlag 0x40 p b (i := 4) (by decide)
@[simp] theorem flag5_putV (p : Byte) (b : Bool) : flag5 (putV p b) = flag5 p := by
  simpa [flag5, putV] using getLsbD_putFlag 0x40 p b (i := 5) (by decide)
@[simp] theorem flagV_putV (p : Byte) (b : Bool) : flagV (putV p b) = b := by
  simpa [flagV, putV] using getLsbD_putFlag 0x40 p b (i := 6) (by decide)
@[simp] theorem flagN_putV (p : Byte) (b : Bool) : flagN (putV p b) = flagN p := by
  simpa [flagN, putV] using getLsbD_putFlag 0x40 p b (i := 7) (by decide)

/-! ### `putN` -/

@[simp] theorem flagC_putN (p : Byte) (b : Bool) : flagC (putN p b) = flagC p := by
  simpa [flagC, putN] using getLsbD_putFlag 0x80 p b (i := 0) (by decide)
@[simp] theorem flagZ_putN (p : Byte) (b : Bool) : flagZ (putN p b) = flagZ p := by
  simpa [flagZ, putN] using getLsbD_putFlag 0x80 p b (i := 1) (by decide)
@[simp] theorem flagI_putN (p : Byte) (b : Bool) : flagI (putN p b) = flagI p := by
  simpa [flagI, putN] using getLsbD_putFlag 0x80 p b (i := 2) (by decide)
@[simp] theorem flagD_putN (p : Byte) (b : Bool) : flagD (putN p b) = flagD p := by
  simpa [flagD, putN] using getLsbD_putFlag 0x80 p b (i := 3) (by decide)
@[simp] theorem flagB_putN (p : Byte) (b : Bool) : flagB (putN p b) = flagB p := by
  simpa [flagB, putN] using getLsbD_putFlag 0x80 p b (i := 4) (by decide)
@[simp] theorem flag5_putN (p : Byte) (b : Bool) : flag5 (putN p b) = flag5 p := by
  simpa [flag5, putN] using getLsbD_putFlag 0x80 p b (i := 5) (by decide)
@[simp] theorem flagV_putN (p : Byte) (b : Bool) : flagV (putN p b) = flagV p := by
  simpa [flagV, putN] using getLsbD_putFlag 0x80 p b (i := 6) (by decide)
@[simp] theorem flagN_putN (p : Byte) (b : Bool) : flagN (putN p b) = b := by
  simpa [flagN, putN] using getLsbD_putFlag 0x80 p b (i := 7) (by decide)

/-! ### The composed flag updates -/

@[simp] theorem flagC_setNZ (p v : Byte) : flagC (setNZ p v) = flagC p := by
  simp [setNZ]
@[simp] theorem flagZ_setNZ (p v : Byte) : flagZ (setNZ p v) = (v == 0) := by
  simp [setNZ]
@[simp] theorem flagI_setNZ (p v : Byte) : flagI (setNZ p v) = flagI p := by
  simp [setNZ]
@[simp] theorem flagD_setNZ (p v : Byte) : flagD (setNZ p v) = flagD p := by
  simp [setNZ]
@[simp] theorem flagB_setNZ (p v : Byte) : flagB (setNZ p v) = flagB p := by
  simp [setNZ]
@[simp] theorem flag5_setNZ (p v : Byte) : flag5 (setNZ p v) = flag5 p := by
  simp [setNZ]
@[simp] theorem flagV_setNZ (p v : Byte) : flagV (setNZ p v) = flagV p := by
  simp [setNZ]
@[simp] theorem flagN_setNZ (p v : Byte) : flagN (setNZ p v) = v.getLsbD 7 := by
  simp [setNZ]

@[simp] theorem flagC_addStatus (p a m : Byte) (c : Bool) :
    flagC (addStatus p a m c) = addCarry a m c := by
  simp [addStatus]
@[simp] theorem flagZ_addStatus (p a m : Byte) (c : Bool) :
    flagZ (addStatus p a m c) = (addResult a m c == 0) := by
  simp [addStatus]
@[simp] theorem flagI_addStatus (p a m : Byte) (c : Bool) :
    flagI (addStatus p a m c) = flagI p := by
  simp [addStatus]
@[simp] theorem flagD_addStatus (p a m : Byte) (c : Bool) :
    flagD (addStatus p a m c) = flagD p := by
  simp [addStatus]
@[simp] theorem flagB_addStatus (p a m : Byte) (c : Bool) :
    flagB (addStatus p a m c) = flagB p := by
  simp [addStatus]
@[simp] theorem flag5_addStatus (p a m : Byte) (c : Bool) :
    flag5 (addStatus p a m c) = flag5 p := by
  simp [addStatus]
@[simp] theorem flagV_addStatus (p a m : Byte) (c : Bool) :
    flagV (addStatus p a m c) = addOverflow a m c := by
  simp [addStatus]
@[simp] theorem flagN_addStatus (p a m : Byte) (c : Bool) :
    flagN (addStatus p a m c) = (addResult a m c).getLsbD 7 := by
  simp [addStatus]

@[simp] theorem flagC_compareStatus (p r m : Byte) :
    flagC (compareStatus p r m) = decide (m.toNat ≤ r.toNat) := by
  simp [compareStatus]
@[simp] theorem flagZ_compareStatus (p r m : Byte) :
    flagZ (compareStatus p r m) = (r == m) := by
  simp [compareStatus]
@[simp] theorem flagI_compareStatus (p r m : Byte) :
    flagI (compareStatus p r m) = flagI p := by
  simp [compareStatus]
@[simp] theorem flagD_compareStatus (p r m : Byte) :
    flagD (compareStatus p r m) = flagD p := by
  simp [compareStatus]
@[simp] theorem flagB_compareStatus (p r m : Byte) :
    flagB (compareStatus p r m) = flagB p := by
  simp [compareStatus]
@[simp] theorem flag5_compareStatus (p r m : Byte) :
    flag5 (compareStatus p r m) = flag5 p := by
  simp [compareStatus]
@[simp] theorem flagV_compareStatus (p r m : Byte) :
    flagV (compareStatus p r m) = flagV p := by
  simp [compareStatus]
@[simp] theorem flagN_compareStatus (p r m : Byte) :
    flagN (compareStatus p r m) = (r - m).getLsbD 7 := by
  simp [compareStatus]

@[simp] theorem flagC_bitStatus (p a m : Byte) :
    flagC (bitStatus p a m) = flagC p := by
  simp [bitStatus]
@[simp] theorem flagZ_bitStatus (p a m : Byte) :
    flagZ (bitStatus p a m) = ((a &&& m) == 0) := by
  simp [bitStatus]
@[simp] theorem flagI_bitStatus (p a m : Byte) :
    flagI (bitStatus p a m) = flagI p := by
  simp [bitStatus]
@[simp] theorem flagD_bitStatus (p a m : Byte) :
    flagD (bitStatus p a m) = flagD p := by
  simp [bitStatus]
@[simp] theorem flagB_bitStatus (p a m : Byte) :
    flagB (bitStatus p a m) = flagB p := by
  simp [bitStatus]
@[simp] theorem flag5_bitStatus (p a m : Byte) :
    flag5 (bitStatus p a m) = flag5 p := by
  simp [bitStatus]
@[simp] theorem flagV_bitStatus (p a m : Byte) :
    flagV (bitStatus p a m) = m.getLsbD 6 := by
  simp [bitStatus]
@[simp] theorem flagN_bitStatus (p a m : Byte) :
    flagN (bitStatus p a m) = m.getLsbD 7 := by
  simp [bitStatus]

@[simp] theorem flagC_shiftStatus (p : Byte) (o : Bool) (r : Byte) :
    flagC (shiftStatus p o r) = o := by
  simp [shiftStatus]
@[simp] theorem flagZ_shiftStatus (p : Byte) (o : Bool) (r : Byte) :
    flagZ (shiftStatus p o r) = (r == 0) := by
  simp [shiftStatus]
@[simp] theorem flagI_shiftStatus (p : Byte) (o : Bool) (r : Byte) :
    flagI (shiftStatus p o r) = flagI p := by
  simp [shiftStatus]
@[simp] theorem flagD_shiftStatus (p : Byte) (o : Bool) (r : Byte) :
    flagD (shiftStatus p o r) = flagD p := by
  simp [shiftStatus]
@[simp] theorem flagB_shiftStatus (p : Byte) (o : Bool) (r : Byte) :
    flagB (shiftStatus p o r) = flagB p := by
  simp [shiftStatus]
@[simp] theorem flag5_shiftStatus (p : Byte) (o : Bool) (r : Byte) :
    flag5 (shiftStatus p o r) = flag5 p := by
  simp [shiftStatus]
@[simp] theorem flagV_shiftStatus (p : Byte) (o : Bool) (r : Byte) :
    flagV (shiftStatus p o r) = flagV p := by
  simp [shiftStatus]
@[simp] theorem flagN_shiftStatus (p : Byte) (o : Bool) (r : Byte) :
    flagN (shiftStatus p o r) = r.getLsbD 7 := by
  simp [shiftStatus]

@[simp] theorem flagC_arrStatus (p r : Byte) :
    flagC (arrStatus p r) = r.getLsbD 6 := by
  simp [arrStatus]
@[simp] theorem flagZ_arrStatus (p r : Byte) :
    flagZ (arrStatus p r) = (r == 0) := by
  simp [arrStatus]
@[simp] theorem flagI_arrStatus (p r : Byte) :
    flagI (arrStatus p r) = flagI p := by
  simp [arrStatus]
@[simp] theorem flagD_arrStatus (p r : Byte) :
    flagD (arrStatus p r) = flagD p := by
  simp [arrStatus]
@[simp] theorem flagB_arrStatus (p r : Byte) :
    flagB (arrStatus p r) = flagB p := by
  simp [arrStatus]
@[simp] theorem flag5_arrStatus (p r : Byte) :
    flag5 (arrStatus p r) = flag5 p := by
  simp [arrStatus]
@[simp] theorem flagV_arrStatus (p r : Byte) :
    flagV (arrStatus p r) = (r.getLsbD 6 ^^ r.getLsbD 5) := by
  simp [arrStatus]
@[simp] theorem flagN_arrStatus (p r : Byte) :
    flagN (arrStatus p r) = r.getLsbD 7 := by
  simp [arrStatus]

@[simp] theorem flagC_pulledStatus (v : Byte) : flagC (pulledStatus v) = flagC v := by
  simp [flagC, pulledStatus]
@[simp] theorem flagZ_pulledStatus (v : Byte) : flagZ (pulledStatus v) = flagZ v := by
  simp [flagZ, pulledStatus]
@[simp] theorem flagI_pulledStatus (v : Byte) : flagI (pulledStatus v) = flagI v := by
  simp [flagI, pulledStatus]
@[simp] theorem flagD_pulledStatus (v : Byte) : flagD (pulledStatus v) = flagD v := by
  simp [flagD, pulledStatus]
@[simp] theorem flagB_pulledStatus (v : Byte) : flagB (pulledStatus v) = false := by
  simp [flagB, pulledStatus]
@[simp] theorem flag5_pulledStatus (v : Byte) : flag5 (pulledStatus v) = true := by
  simp [flag5, pulledStatus]
@[simp] theorem flagV_pulledStatus (v : Byte) : flagV (pulledStatus v) = flagV v := by
  simp [flagV, pulledStatus]
@[simp] theorem flagN_pulledStatus (v : Byte) : flagN (pulledStatus v) = flagN v := by
  simp [flagN, pulledStatus]
@[simp] theorem flagC_pushedStatus (p : Byte) : flagC (pushedStatus p) = flagC p := by
  simp [flagC, pushedStatus]
@[simp] theorem flagZ_pushedStatus (p : Byte) : flagZ (pushedStatus p) = flagZ p := by
  simp [flagZ, pushedStatus]
@[simp] theorem flagI_pushedStatus (p : Byte) : flagI (pushedStatus p) = flagI p := by
  simp [flagI, pushedStatus]
@[simp] theorem flagD_pushedStatus (p : Byte) : flagD (pushedStatus p) = flagD p := by
  simp [flagD, pushedStatus]
@[simp] theorem flagB_pushedStatus (p : Byte) : flagB (pushedStatus p) = true := by
  simp [flagB, pushedStatus]
@[simp] theorem flag5_pushedStatus (p : Byte) : flag5 (pushedStatus p) = true := by
  simp [flag5, pushedStatus]
@[simp] theorem flagV_pushedStatus (p : Byte) : flagV (pushedStatus p) = flagV p := by
  simp [flagV, pushedStatus]
@[simp] theorem flagN_pushedStatus (p : Byte) : flagN (pushedStatus p) = flagN p := by
  simp [flagN, pushedStatus]

end Sys2Proof.Machine
end

