-- ==== Sys2Proof/Laws/Bus.lean ====
section
/-! SUPPORT. What the address decode, the bus operations and the stack can do (20_memory.md), said once each. -/

namespace Sys2Proof.Machine

/-! ### Address decode -/

theorem ramIndex_eq (a : Word) : (a &&& 0x07FF).toNat = a.toNat % 0x800 := by
  rw [BitVec.toNat_and]; exact Nat.and_two_pow_sub_one_eq_mod a.toNat 11

theorem window_ram {a : Word} (sz : PrgSize) (h : InRam a) : window sz a = .ram (a.toNat % 0x800) := by
  unfold window; rw [if_pos h, ramIndex_eq]

theorem window_ppu {a : Word} (sz : PrgSize) (h : InPpu a) : window sz a = .ppu (a.setWidth 3) := by
  unfold window; rw [if_neg (by omega), if_pos h.2]

theorem window_unmapped {a : Word} (sz : PrgSize) (h : InUnmapped a) : window sz a = .unmapped := by
  unfold window; rw [if_neg (by omega), if_neg (by omega), if_pos h.2]

theorem window_prg {a : Word} (sz : PrgSize) (h : InPrg a) : window sz a = .prg (prgCell sz a) := by
  unfold window; rw [if_neg (by omega), if_neg (by omega), if_neg (by omega)]

/-- The four windows are exhaustive (R51). -/
theorem window_cases (a : Word) : InRam a ∨ InPpu a ∨ InUnmapped a ∨ InPrg a := by omega

/-- A RAM cell lies below `0x800`. -/
theorem window_ram_bound {sz : PrgSize} {a : Word} {k : Nat} (h : window sz a = .ram k) : k < 0x800 := by
  rcases window_cases a with ha | ha | ha | ha
  · rw [window_ram sz ha] at h; injection h with h; omega
  · rw [window_ppu sz ha] at h; injection h
  · rw [window_unmapped sz ha] at h; injection h
  · rw [window_prg sz ha] at h; injection h

/-- A PRG cell lies at `0x8000` or above. -/
theorem prgCell_bound (sz : PrgSize) (a : Word) : 0x8000 ≤ prgCell sz a := by
  simp only [prgCell]; omega

/-- A PRG offset lies inside the cartridge (R56). -/
theorem prgOffset_lt (sz : PrgSize) (a : Word) : prgOffset sz a < prgLength sz := by
  have := a.isLt
  cases sz
  · show a.toNat % 0x4000 < 0x4000; omega
  · show a.toNat - 0x8000 < 0x8000; omega

theorem prgCell_lt (sz : PrgSize) (a : Word) : prgCell sz a < 0x8000 + prgLength sz :=
  Nat.add_lt_add_left (prgOffset_lt sz a) 0x8000

theorem cellOf_eq_some {sz : PrgSize} {a : Word} {k : Nat} :
    cellOf sz a = some k ↔ window sz a = .ram k ∨ window sz a = .prg k := by
  unfold cellOf; cases window sz a <;> simp

/-! ### Bus operations -/

/-- Everything a read can do: it answers a byte and changes at most the record of hook calls, or the address is
unmapped. -/
theorem read8_cases (a : Word) (s : State) :
    (∃ v calls, read8 a s = .ok v { s with ppuCalls := calls }) ∨
    (InUnmapped a ∧ read8 a s = .stop (.unmappedAddress a .read) s.ppuCalls) := by
  unfold read8
  rcases window_cases a with h | h | h | h
  · rw [window_ram _ h]; exact .inl ⟨_, s.ppuCalls, rfl⟩
  · rw [window_ppu _ h]; exact .inl ⟨_, _, rfl⟩
  · rw [window_unmapped _ h]; exact .inr ⟨h, rfl⟩
  · rw [window_prg _ h]; exact .inl ⟨_, s.ppuCalls, rfl⟩

/-- A read that answers leaves the state but for the record of hook calls. -/
theorem read8_ok {a : Word} {s u : State} {v : Byte} (h : read8 a s = .ok v u) :
    u = { s with ppuCalls := u.ppuCalls } := by
  rcases read8_cases a s with ⟨w, calls, e⟩ | ⟨_, e⟩
  · rw [e] at h; injection h with _ h; subst h; rfl
  · rw [e] at h; cases h

theorem read8_stop {a : Word} {s : State} {c : FatalCondition} {calls : List PpuCall} (h : read8 a s = .stop c calls) :
    InUnmapped a ∧ c = .unmappedAddress a .read ∧ calls = s.ppuCalls := by
  rcases read8_cases a s with ⟨w, calls, e⟩ | ⟨ha, e⟩
  · rw [e] at h; cases h
  · rw [e] at h; injection h with h h'; exact ⟨ha, h.symm, h'.symm⟩

theorem read8_unmapped {a : Word} {s : State} (h : InUnmapped a) :
    read8 a s = .stop (.unmappedAddress a .read) s.ppuCalls := by
  unfold read8; rw [window_unmapped _ h]

/-- Everything a write that answers can do: it writes one RAM cell, or calls the hook. -/
theorem write8_ok {a : Word} {v : Byte} {s u : State} {x : Unit} (h : write8 a v s = .ok x u) :
    (∃ k, k < 0x800 ∧ cellOf s.cfg.prgSize a = some k ∧ u = { s with mem := s.mem.set k v }) ∨
    (cellOf s.cfg.prgSize a = none ∧ u = { s with ppuCalls := u.ppuCalls }) := by
  unfold write8 at h
  cases hw : window s.cfg.prgSize a with
  | ram k =>
    rw [hw] at h; injection h with _ h
    exact .inl ⟨k, window_ram_bound hw, cellOf_eq_some.2 (.inl hw), h.symm⟩
  | ppu reg =>
    rw [hw] at h; injection h with _ h; subst h
    exact .inr ⟨by simp [cellOf, hw], rfl⟩
  | unmapped => rw [hw] at h; cases h
  | prg k => rw [hw] at h; cases h

theorem write8_ram {a : Word} (v : Byte) {s : State} (h : InRam a) :
    write8 a v s = .ok () { s with mem := s.mem.set (a.toNat % 0x800) v } := by
  unfold write8; rw [window_ram _ h]

theorem write8_ppu {a : Word} (v : Byte) {s : State} (h : InPpu a) :
    write8 a v s = .ok () (logPpu s (.write (a.setWidth 3) v)) := by
  unfold write8; rw [window_ppu _ h]

theorem write8_unmapped {a : Word} (v : Byte) {s : State} (h : InUnmapped a) :
    write8 a v s = .stop (.unmappedAddress a .write) s.ppuCalls := by
  unfold write8; rw [window_unmapped _ h]

theorem write8_prg {a : Word} (v : Byte) {s : State} (h : InPrg a) : write8 a v s = .stop (.prgRomWrite a) s.ppuCalls := by
  unfold write8; rw [window_prg _ h]

/-! ### The stack -/

/-- A stack slot lies in `0x100` to `0x1FF` (R24). -/
theorem stackCell_bound (sp : Byte) : 0x100 ≤ stackCell sp ∧ stackCell sp < 0x200 := by
  have := sp.isLt; unfold stackCell; omega

/-- Two stack slots are the same only for the same `SP`. -/
theorem stackCell_inj {p q : Byte} : stackCell p = stackCell q ↔ p = q := by
  unfold stackCell
  exact ⟨fun h => BitVec.eq_of_toNat_eq (by omega), fun h => h ▸ rfl⟩

/-- The address of a stack slot (R24). -/
theorem stackAddress_toNat (sp : Byte) : (0x0100 + zext16 sp).toNat = stackCell sp := by
  have h := sp.isLt
  have e : (0x0100 : Word).toNat = 0x100 := rfl
  simp only [zext16, stackCell, BitVec.toNat_add, BitVec.toNat_setWidth, e]; omega

theorem stackAddress_inRam (sp : Byte) : InRam (0x0100 + zext16 sp) := by
  have := stackCell_bound sp
  rw [InRam, stackAddress_toNat]; omega

/-- A push is the bus write at `0x0100 + SP`, then the decrement (R66). -/
theorem push8_eq_write8 (v : Byte) (s : State) :
    write8 (0x0100 + zext16 s.sp) v s = .ok () { push8 v s with sp := s.sp } := by
  have := stackCell_bound s.sp
  rw [write8_ram v (stackAddress_inRam s.sp), stackAddress_toNat, Nat.mod_eq_of_lt (by omega)]
  rfl

/-- A pull reads through the bus at `0x0100 + SP` after the increment (R67). -/
theorem pull8_eq_read8 (s : State) : read8 (0x0100 + zext16 (s.sp + 1)) (pull8 s) = .ok (pulledByte s) (pull8 s) := by
  have := stackCell_bound (s.sp + 1)
  unfold read8
  rw [window_ram _ (stackAddress_inRam (s.sp + 1)), stackAddress_toNat, Nat.mod_eq_of_lt (by omega)]
  rfl

/-! ### Ends of an instruction -/

theorem Access.conclude_next {α : Type} {r : Access α} {f : α → State → State} {t : State} :
    r.conclude f = .next t ↔ ∃ v u, r = .ok v u ∧ t = f v u := by
  cases r <;> simp [Access.conclude, eq_comm]

theorem Access.bind_ok {α β : Type} {r : Access α} {f : α → State → Access β} {w : β} {t : State} :
    r.bind f = .ok w t ↔ ∃ v u, r = .ok v u ∧ f v u = .ok w t := by
  cases r <;> simp [Access.bind]

theorem Access.bind_stop {α β : Type} {r : Access α} {f : α → State → Access β} {c : FatalCondition}
    {calls : List PpuCall} :
    r.bind f = .stop c calls ↔ r = .stop c calls ∨ ∃ v u, r = .ok v u ∧ f v u = .stop c calls := by
  cases r <;> simp [Access.bind]

/-! ### Words and vectors -/

/-- A word read that answers leaves the state but for the record of hook calls. -/
theorem read16_ok {a : Word} {s u : State} {w : Word} (h : read16 a s = .ok w u) : u = { s with ppuCalls := u.ppuCalls } := by
  obtain ⟨l, t, h1, h2⟩ := Access.bind_ok.1 h
  obtain ⟨hb, v, h3, h4⟩ := Access.bind_ok.1 h2
  injection h4 with _ h4; subst h4
  rw [read8_ok h3, read8_ok h1]

/-- A word read stops only at an unmapped byte. -/
theorem read16_stop {a : Word} {s : State} {c : FatalCondition} {calls : List PpuCall}
    (h : read16 a s = .stop c calls) : ∃ b, c = .unmappedAddress b .read := by
  rcases Access.bind_stop.1 h with h | ⟨l, t, -, h⟩
  · exact ⟨a, (read8_stop h).2.1⟩
  · rcases Access.bind_stop.1 h with h | ⟨hb, v, -, h⟩
    · exact ⟨a + 1, (read8_stop h).2.1⟩
    · cases h

/-- Reading a word of the PRG window by the bus gives its two bytes and changes nothing (R56, R60). -/
theorem read16_prg {a : Word} (s : State) (h : InPrg a) (h1 : InPrg (a + 1)) : read16 a s = .ok (vectorAt s a) s := by
  unfold read16 read8
  simp only [window_prg _ h, window_prg _ h1, Access.bind, vectorAt]

end Sys2Proof.Machine
end

