-- ==== Sys2Proof/Laws/Bytes.lean ====
section
/-! SUPPORT. The byte halves of a word and a word of two bytes undo each other (00_scope.md R8, R12). -/

namespace Sys2Proof

@[simp] theorem wordOf_hi_lo (w : Word) : wordOf (hi w) (lo w) = w := by
  apply BitVec.eq_of_getLsbD_eq
  intro i _
  simp only [wordOf, hi, lo, BitVec.getLsbD_append, BitVec.getLsbD_extractLsb']
  by_cases h : i < 8
  · simp [h]
  · have h1 : i - 8 < 8 := by omega
    have h2 : 8 + (i - 8) = i := by omega
    simp [h, h1, h2]

@[simp] theorem lo_wordOf (h l : Byte) : lo (wordOf h l) = l := by
  apply BitVec.eq_of_getLsbD_eq
  intro i hi'
  simp only [lo, wordOf, BitVec.getLsbD_extractLsb', BitVec.getLsbD_append, Nat.zero_add, hi', decide_true, if_true,
    Bool.true_and]

@[simp] theorem hi_wordOf (h l : Byte) : hi (wordOf h l) = h := by
  apply BitVec.eq_of_getLsbD_eq
  intro i hi'
  have h1 : ¬ (8 + i < 8) := by omega
  have h2 : 8 + i - 8 = i := by omega
  simp only [hi, wordOf, BitVec.getLsbD_extractLsb', BitVec.getLsbD_append, hi', h1, h2, decide_true, if_false,
    Bool.true_and]

end Sys2Proof
end

