-- ==== Sys2Proof/Laws/Decode.lean ====
section
/-! SUPPORT. What the opcode table of a machine can hold (00_scope.md R7, 30_encoding.md R94), and which of its rows
start an instruction. -/

namespace Sys2Proof

/-- The rows of a partial map from bytes to rows, as a configuration holds them. -/
def tableOf (f : Byte → Option OpcodeRow) : List (Byte × Option OpcodeRow) :=
  (List.finRange 256).map fun n => (BitVec.ofFin n, f (BitVec.ofFin n))

/-- Every partial map from bytes to rows is the opcode table of some configuration (R7, D1). -/
theorem optableRow_tableOf (f : Byte → Option OpcodeRow) (op : Byte) : optableRow (tableOf f) op = f op := by
  have key : ∀ l : List (Fin (2 ^ 8)), op.toFin ∈ l →
      (l.map fun n => ((BitVec.ofFin n : Byte), f (BitVec.ofFin n))).lookup op = some (f op) := by
    intro l
    induction l with
    | nil => simp
    | cons n l ih =>
      intro h
      by_cases e : op = BitVec.ofFin n
      · subst e; simp
      · have h' : op.toFin ∈ l := by
          rcases List.mem_cons.1 h with h | h
          · exact absurd (by rw [← h]) e
          · exact h
        simp [List.lookup_cons, ih h', beq_eq_false_iff_ne.2 e]
  unfold optableRow tableOf
  rw [key _ (List.mem_finRange _)]; rfl

/-- The default table has a row for every byte (R97). -/
theorem optableRow_default (op : Byte) : (optableRow [] op).isSome = true := by
  have h : ∀ op : Byte, (optableRow [] op).isSome = true := by decide
  exact h op

/-- A row starts an instruction exactly when it has an instruction rule (R94). -/
theorem rowShape_isSome (op : Byte) (row : OpcodeRow) : (rowShape op row).isSome = row.hasRule := by
  obtain ⟨mnemonic, mode, cycles⟩ := row
  cases mnemonic <;> cases mode <;> rfl

/-- The two halves of well-formedness. -/
theorem wellFormed_iff {i : Instr} : i.wellFormed = true ↔ i.ownByte = true ∧ i.mode ∈ modesOf i.mnemonic := by
  simp [Instr.wellFormed]

end Sys2Proof
end

