-- ==== Sys2Proof/Laws/Operands.lean ====
section
/-! SUPPORT. What each access class can do (40_step_and_addressing.md R136), said once each: "if it answers next t, then
…". -/

namespace Sys2Proof.Machine

/-- Reading an operand changes at most the record of hook calls. -/
theorem loadOperand_ok {m : Operand} {s u : State} {v : Byte} (h : loadOperand m s = .ok v u) :
    u = { s with ppuCalls := u.ppuCalls } := by
  cases m with
  | imm b => injection h with _ h; subst h; rfl
  | acc => injection h with _ h; subst h; rfl
  | mem ad => exact read8_ok h

/-- Reading an operand stops only at an unmapped operand address. -/
theorem loadOperand_stop {m : Operand} {s : State} {c : FatalCondition} {calls : List PpuCall}
    (h : loadOperand m s = .stop c calls) :
    ∃ ad, m = .mem ad ∧ InUnmapped (operandAddress ad s) ∧ c = .unmappedAddress (operandAddress ad s) .read ∧
      calls = s.ppuCalls := by
  cases m with
  | imm b => cases h
  | acc => cases h
  | mem ad => exact ⟨ad, rfl, read8_stop h⟩

/-- A readable operand reads. -/
theorem loadOperand_readable {m : Operand} {s : State} (h : Readable m s) : ∃ v u, ReadsAs m s v u := by
  cases hl : loadOperand m s with
  | ok v u => exact ⟨v, u, hl, loadOperand_ok hl⟩
  | stop c calls =>
    obtain ⟨ad, hm, hu, -⟩ := loadOperand_stop hl
    exact absurd hu (h ad hm)

theorem readClass_next {m : Operand} {use : Byte → State → State} {s t : State} :
    readClass m use s = .next t ↔
      ∃ v u, loadOperand m s = .ok v u ∧ t = advance m.mode (use v u) :=
  Access.conclude_next

theorem storeClass_next {ad : Addressing} {v : Byte} {s t : State} :
    storeClass ad v s = .next t ↔
      ∃ u, write8 (operandAddress ad s) v s = .ok () u ∧ t = advance ad.mode u := by
  unfold storeClass; rw [Access.conclude_next]
  exact ⟨fun ⟨_, h⟩ => h, fun h => ⟨(), h⟩⟩

theorem modifyClass_next {ad : Addressing} {g : Byte → Byte} {use : Byte → State → State} {s t : State} :
    modifyClass ad g use s = .next t ↔
      ∃ v u w, read8 (operandAddress ad s) s = .ok v u ∧ write8 (operandAddress ad s) (g v) u = .ok () w ∧
        t = advance ad.mode (use v w) := by
  simp only [modifyClass, Access.conclude_next, Access.bind_ok]
  constructor
  · rintro ⟨v, u, ⟨v', u', hr, ⟨⟨⟩, w, hw, e⟩⟩, rfl⟩
    injection e with e1 e2; subst e1 e2
    exact ⟨v', u', w, hr, hw, rfl⟩
  · rintro ⟨v, u, w, hr, hw, rfl⟩
    exact ⟨v, w, ⟨v, u, hr, (), w, hw, rfl⟩, rfl⟩

theorem jumpTarget_ok {j : JumpTarget} {s u : State} {w : Word} (h : jumpTarget j s = .ok w u) :
    u = { s with ppuCalls := u.ppuCalls } := by
  cases j with
  | abs w => injection h with _ h; subst h; rfl
  | ind p =>
    obtain ⟨l, u1, h1, h2⟩ := Access.bind_ok.1 h
    obtain ⟨hb, u2, h3, h4⟩ := Access.bind_ok.1 h2
    injection h4 with _ h4; subst h4
    have e1 := read8_ok h1
    have e2 := read8_ok h3
    rw [e2, e1]

/-- Reading the operand bytes changes at most the record of hook calls. -/
theorem readOperandBytes_ok {sh : Shape} {s u : State} {i : Instr} (h : readOperandBytes sh s = .ok i u) :
    u = { s with ppuCalls := u.ppuCalls } := by
  cases sh with
  | one j => injection h with _ h; subst h; rfl
  | unread f => injection h with _ h; subst h; rfl
  | two f =>
    obtain ⟨b, t, h1, h2⟩ := Access.bind_ok.1 h
    injection h2 with _ h2; subst h2; exact read8_ok h1
  | three f =>
    obtain ⟨w, t, h1, h2⟩ := Access.bind_ok.1 h
    injection h2 with _ h2; subst h2; exact read16_ok h1

/-- A fetch changes at most the record of hook calls. -/
theorem fetch_ok {s u : State} {f : Fetched} (h : fetch s = .ok f u) : u = { s with ppuCalls := u.ppuCalls } := by
  obtain ⟨op, t, h1, h2⟩ := Access.bind_ok.1 h
  have e1 := read8_ok h1
  split at h2
  · cases h2
  · split at h2
    · injection h2 with _ h2; subst h2; exact e1
    · obtain ⟨i, v, h3, h4⟩ := Access.bind_ok.1 h2
      injection h4 with _ h4; subst h4
      rw [readOperandBytes_ok h3, e1]

/-- Accumulating the cycles keeps the outcome. -/
theorem accumulate_next {n : Nat} {r : Result} {t : State} :
    accumulate n r = .next t ↔ ∃ v, r = .next v ∧ t = { v with cycles := cyclesAfter n v } := by
  cases r <;> simp [accumulate, eq_comm]

/-- Everything a step that answers can do: the machine is running, the fetch answers an instruction, and the step is its
execution with the cycles accumulated. -/
theorem step_next {s t : State} (h : step s = .next t) :
    s.run = .running ∧ ∃ i n u v, fetch s = .ok (.instr i n) u ∧ exec i u = .next v ∧
      t = { v with cycles := cyclesAfter n v } := by
  unfold step at h
  split at h
  · rename_i hr
    split at h
    · rename_i i n u hf
      obtain ⟨v, hv, ht⟩ := accumulate_next.1 h
      exact ⟨hr, i, n, u, v, hf, hv, ht⟩
    · cases h
    · cases h
  · cases h
  · cases h

end Sys2Proof.Machine
end

