-- ==== Sys2Proof/Laws/Exec.lean ====
section
/-! SUPPORT. Where each shared operation completes (40_step_and_addressing.md R136, R235), in the terms of
Safety.lean, and what the fetch does once the opcode byte is read (R120). -/

namespace Sys2Proof.Machine

/-- An instruction that answers `w` leaves `w`. -/
theorem leaves_of_next {i : Instr} {s t w : State} (h : exec i s = .next w) (e : w = t) : Leaves i s t := e ▸ h

/-- The read class completes where the operand can be read. -/
theorem readsInto_of_readClass {i : Instr} {m : Operand} {s : State} {f : Byte → State → State}
    (use : Byte → State → State) (h : exec i s = readClass m use s)
    (hf : ∀ v calls, f v { s with ppuCalls := calls } = use v { s with ppuCalls := calls })
    (hp : ∀ v calls, (f v { s with ppuCalls := calls }).pc = s.pc) : ReadsInto i m s f := by
  intro hr
  obtain ⟨v, u, hl, hu⟩ := loadOperand_readable hr
  have h1 := hf v u.ppuCalls
  have h2 := hp v u.ppuCalls
  rw [← hu] at h1 h2
  refine ⟨v, u, ⟨hl, hu⟩, leaves_of_next (h.trans (readClass_next.2 ⟨v, u, hl, rfl⟩)) ?_⟩
  rw [← h1]; simp only [advance, h2]; rfl

/-- The store class completes where the operand address is RAM or a PPU register. -/
theorem storesTo_of_storeClass {i : Instr} {ad : Addressing} {s t : State} {v : Byte}
    (h : exec i s = storeClass ad v t) (ha : operandAddress ad t = operandAddress ad s) (hm : t.mem = s.mem)
    (hc : t.ppuCalls = s.ppuCalls) (hp : t.pc = s.pc) : StoresTo i ad s t v := by
  constructor
  · intro hr
    refine leaves_of_next (h.trans (storeClass_next.2 ⟨_, by rw [ha]; exact write8_ram v hr, rfl⟩)) ?_
    simp only [advance, hp, hm]; rfl
  · intro hr
    refine leaves_of_next (h.trans (storeClass_next.2 ⟨_, by rw [ha]; exact write8_ppu v hr, rfl⟩)) ?_
    simp only [advance, hp, hc, logPpu]; rfl

/-- A byte of RAM reads as its cell. -/
theorem read8_ram {a : Word} {s : State} (h : InRam a) : read8 a s = .ok (s.mem.get (a.toNat % 0x800)) s := by
  unfold read8; rw [window_ram _ h]

/-- A PPU register reads as the hook answers, and the call is recorded. -/
theorem read8_ppu {a : Word} {s : State} (h : InPpu a) :
    read8 a s = .ok (ppuValue s (a.setWidth 3)) (logPpu s (.read (a.setWidth 3))) := by
  unfold read8; rw [window_ppu _ h]

/-- A byte of PRG reads as its cell. -/
theorem read8_prg {a : Word} {s : State} (h : InPrg a) : read8 a s = .ok (s.mem.get (prgCell s.cfg.prgSize a)) s := by
  unfold read8; rw [window_prg _ h]

/-- The read-modify-write class completes where the operand address is RAM or a PPU register. -/
theorem modifiesTo_of_modifyClass {i : Instr} {ad : Addressing} {s : State} {g : Byte → Byte} {f : Byte → State}
    (use : Byte → State → State) (h : exec i s = modifyClass ad g use s)
    (hf : ∀ v mem calls, use v { s with mem := mem, ppuCalls := calls } = { f v with mem := mem, ppuCalls := calls })
    (hp : ∀ v, (f v).pc = s.pc) (hm : ∀ v, (f v).mem = s.mem) (hc : ∀ v, (f v).ppuCalls = s.ppuCalls) :
    ModifiesTo i ad s g f := by
  constructor
  · intro hr
    refine leaves_of_next (h.trans (modifyClass_next.2 ⟨_, _, _, read8_ram hr, write8_ram _ hr, rfl⟩)) ?_
    have e : ∀ (v : Byte) (m : Memory), use v { s with mem := m } = { f v with mem := m } := fun v m =>
      (hf v m s.ppuCalls).trans (by rw [← hc v])
    rw [e]; simp only [advance, hp]; rfl
  · intro hr
    refine leaves_of_next (h.trans (modifyClass_next.2 ⟨_, _, _, read8_ppu hr, write8_ppu _ hr, rfl⟩)) ?_
    have e : ∀ (v : Byte) (c : List PpuCall), use v { s with ppuCalls := c } = { f v with ppuCalls := c } :=
      fun v c => (hf v s.mem c).trans (by rw [← hm v])
    simp only [logPpu]
    rw [e]; simp only [advance, hp]; rfl

/-- A branch always completes: at its target when the condition holds, else at the next instruction. -/
theorem branchClass_next (c : Bool) (off : Byte) (s : State) :
    branchClass c off s =
      .next { s with pc := if c then branchTarget s.pc off else s.pc + 2 } := by
  cases c <;> rfl

/-- An unstable instruction answers what its meaning answers, where it has one. -/
theorem unstableClass_asSpecified {m : String} {r : Result} {s : State} (h : s.cfg.unstableStores = .asSpecified) :
    unstableClass m r s = r := by
  unfold unstableClass; rw [h]

/-- And is refused by name where it has none. -/
theorem unstableClass_refuse {m : String} {r : Result} {s : State} (h : s.cfg.unstableStores = .refuse) :
    unstableClass m r s = .refused (.unstableStores m) := by
  unfold unstableClass; rw [h]

/-- A byte stored in memory reads as itself, with no effect. -/
theorem read8_of_storedByte {a : Word} {s : State} {v : Byte} (h : storedByte s a = some v) : read8 a s = .ok v s := by
  unfold storedByte cellOf at h
  unfold read8
  cases hw : window s.cfg.prgSize a <;> rw [hw] at h <;> simp at h <;> simp [h]

/-- What the fetch does once the opcode byte is read. -/
theorem fetch_of_read8 {s u : State} {op : Byte} (h : read8 s.pc s = .ok op u) :
    fetch s =
      match optableRow s.cfg.optable op with
      | none => .stop (.unknownOpcode op s.pc) u.ppuCalls
      | some row =>
        match rowShape op row with
        | none => .ok (.noRule op) u
        | some shape => (readOperandBytes shape u).bind fun i t => .ok (.instr i row.cycles) t := by
  have e := read8_ok h
  have hc : u.cfg = s.cfg := by rw [e]
  have hp : u.pc = s.pc := by rw [e]
  simp only [fetch, h, Access.bind, hc, hp] <;> rfl

/-- What the fetch does once the opcode byte is read and its row found. -/
theorem fetch_of_row {s u : State} {op : Byte} {row : OpcodeRow} {sh : Shape} (h : read8 s.pc s = .ok op u)
    (hr : optableRow s.cfg.optable op = some row) (hs : rowShape op row = some sh) :
    fetch s = (readOperandBytes sh u).bind fun i t => .ok (.instr i row.cycles) t := by
  rw [fetch_of_read8 h, hr]; dsimp only; rw [hs]

/-- Which operand bytes the fetch reads for a row with an instruction rule (R120, R125, R258). -/
theorem rowShape_reads {op : Byte} {row : OpcodeRow} (h : row.hasRule = true) :
    (operandBytesRead row = 0 →
      (∃ i, rowShape op row = some (.one i)) ∨ ∃ f, rowShape op row = some (.unread f)) ∧
    (operandBytesRead row = 1 → ∃ f, rowShape op row = some (.two f)) ∧
    (operandBytesRead row = 2 → ∃ f, rowShape op row = some (.three f)) ∧ operandBytesRead row ≤ 2 := by
  obtain ⟨mnemonic, mode, cycles⟩ := row
  cases mnemonic <;> cases mode <;> first
    | (cases h; done)
    | (refine ⟨fun h => ?_, fun h => ?_, fun h => ?_, Nat.le_of_ble_eq_true rfl⟩ <;> first
        | (cases h; done)
        | exact .inl ⟨_, rfl⟩
        | exact .inr ⟨_, rfl⟩
        | exact ⟨_, rfl⟩)

/-- A running machine's step is the fetch, then the execution, then the cycles. -/
theorem step_of_running {s : State} (h : s.run = .running) :
    step s = match fetch s with
      | .ok (.instr i n) t => accumulate n (exec i t)
      | .ok (.noRule op) _ => .refused (.opcodeRow op)
      | .stop c calls => .fault (.fatal c calls) := by
  unfold step; rw [h] <;> rfl

/-- A running machine whose fetch answers an instruction steps as that instruction. -/
theorem stepsAs_of_fetch {s u : State} {i : Instr} {n : Nat} (h : s.run = .running) (hf : fetch s = .ok (.instr i n) u) :
    StepsAs s i u := by
  have e : step s = accumulate n (exec i u) := by rw [step_of_running h, hf]
  refine ⟨fun t ht => ⟨cyclesAfter n t, ?_⟩, fun f hf => ?_, fun r hr => ?_⟩
  · rw [e, ht] <;> rfl
  · rw [e, hf] <;> rfl
  · rw [e, hr] <;> rfl

end Sys2Proof.Machine
end

