-- ==== Sys2Proof/Laws/PerInstr.lean ====
section
/-! SUPPORT. Statements made of every instruction as syntax, one lemma per constructor of `Instr`: a well-formed
instruction has an opcode byte, and as many operand bytes as its addressing mode says (30_encoding.md R91, R92, R95,
R96). -/

namespace Sys2Proof.Laws.Encoding

/-- A well-formed instruction has an opcode byte, and its encoding is as long as its mode says. -/
def Statement (i : Instr) : Prop :=
  i.wellFormed = true → ∃ op, opcodeOf i = some op ∧ (operandBytes i).length + 1 = i.mode.size

/-- The operand bytes of a memory operand are as many as its mode says. -/
theorem addressing_bytes (m : Addressing) : m.bytes.length + 1 = m.mode.size := by cases m <;> rfl

/-- A memory operand in one of the modes of a list has one of its forms' opcode bytes. -/
theorem forms_addressing {f : Forms} {modes : List Mode} {m : Addressing} (h : modes.contains m.mode = true)
    (hf : ∀ m : Addressing, modes.contains m.mode = true → (f.ofAddressing m).isSome = true) :
    ∃ op, f.ofAddressing m = some op ∧ m.bytes.length + 1 = m.mode.size :=
  (Option.isSome_iff_exists.1 (hf m h)).imp fun _ h => ⟨h, addressing_bytes m⟩

/-- The same for an operand. -/
theorem forms_operand {f : Forms} {modes : List Mode} {m : Operand} (h : modes.contains m.mode = true)
    (hf : ∀ m : Operand, modes.contains m.mode = true → (f.ofOperand m).isSome = true) :
    ∃ op, f.ofOperand m = some op ∧ m.bytes.length + 1 = m.mode.size := by
  refine (Option.isSome_iff_exists.1 (hf m h)).imp fun _ h => ⟨h, ?_⟩
  cases m with
  | imm b => rfl
  | acc => rfl
  | mem ad => exact addressing_bytes ad

theorem lda (m : Operand) : Statement (.lda m) := fun h =>
  forms_operand h fun m h => by
    rcases m with _ | _ | ad
    · rfl
    · cases h
    · cases ad <;> first | rfl | cases h

theorem ldx (m : Operand) : Statement (.ldx m) := fun h =>
  forms_operand h fun m h => by
    rcases m with _ | _ | ad
    · rfl
    · cases h
    · cases ad <;> first | rfl | cases h

theorem ldy (m : Operand) : Statement (.ldy m) := fun h =>
  forms_operand h fun m h => by
    rcases m with _ | _ | ad
    · rfl
    · cases h
    · cases ad <;> first | rfl | cases h

theorem sta (m : Addressing) : Statement (.sta m) := fun h =>
  forms_addressing h fun m h => by cases m <;> first | rfl | cases h

theorem stx (m : Addressing) : Statement (.stx m) := fun h =>
  forms_addressing h fun m h => by cases m <;> first | rfl | cases h

theorem sty (m : Addressing) : Statement (.sty m) := fun h =>
  forms_addressing h fun m h => by cases m <;> first | rfl | cases h

theorem tax : Statement .tax := fun _ => ⟨_, rfl, rfl⟩

theorem tay : Statement .tay := fun _ => ⟨_, rfl, rfl⟩

theorem tsx : Statement .tsx := fun _ => ⟨_, rfl, rfl⟩

theorem txa : Statement .txa := fun _ => ⟨_, rfl, rfl⟩

theorem tya : Statement .tya := fun _ => ⟨_, rfl, rfl⟩

theorem txs : Statement .txs := fun _ => ⟨_, rfl, rfl⟩

theorem adc (m : Operand) : Statement (.adc m) := fun h =>
  forms_operand h fun m h => by
    rcases m with _ | _ | ad
    · rfl
    · cases h
    · cases ad <;> first | rfl | cases h

theorem sbc (m : Operand) : Statement (.sbc m) := fun h =>
  forms_operand h fun m h => by
    rcases m with _ | _ | ad
    · rfl
    · cases h
    · cases ad <;> first | rfl | cases h

theorem and (m : Operand) : Statement (.and m) := fun h =>
  forms_operand h fun m h => by
    rcases m with _ | _ | ad
    · rfl
    · cases h
    · cases ad <;> first | rfl | cases h

theorem ora (m : Operand) : Statement (.ora m) := fun h =>
  forms_operand h fun m h => by
    rcases m with _ | _ | ad
    · rfl
    · cases h
    · cases ad <;> first | rfl | cases h

theorem eor (m : Operand) : Statement (.eor m) := fun h =>
  forms_operand h fun m h => by
    rcases m with _ | _ | ad
    · rfl
    · cases h
    · cases ad <;> first | rfl | cases h

theorem cmp (m : Operand) : Statement (.cmp m) := fun h =>
  forms_operand h fun m h => by
    rcases m with _ | _ | ad
    · rfl
    · cases h
    · cases ad <;> first | rfl | cases h

theorem cpx (m : Operand) : Statement (.cpx m) := fun h =>
  forms_operand h fun m h => by
    rcases m with _ | _ | ad
    · rfl
    · cases h
    · cases ad <;> first | rfl | cases h

theorem cpy (m : Operand) : Statement (.cpy m) := fun h =>
  forms_operand h fun m h => by
    rcases m with _ | _ | ad
    · rfl
    · cases h
    · cases ad <;> first | rfl | cases h

theorem bit (m : Addressing) : Statement (.bit m) := fun h =>
  forms_addressing h fun m h => by cases m <;> first | rfl | cases h

theorem asl (m : Operand) : Statement (.asl m) := fun h =>
  forms_operand h fun m h => by
    rcases m with _ | _ | ad
    · cases h
    · rfl
    · cases ad <;> first | rfl | cases h

theorem lsr (m : Operand) : Statement (.lsr m) := fun h =>
  forms_operand h fun m h => by
    rcases m with _ | _ | ad
    · cases h
    · rfl
    · cases ad <;> first | rfl | cases h

theorem rol (m : Operand) : Statement (.rol m) := fun h =>
  forms_operand h fun m h => by
    rcases m with _ | _ | ad
    · cases h
    · rfl
    · cases ad <;> first | rfl | cases h

theorem ror (m : Operand) : Statement (.ror m) := fun h =>
  forms_operand h fun m h => by
    rcases m with _ | _ | ad
    · cases h
    · rfl
    · cases ad <;> first | rfl | cases h

theorem inc (m : Addressing) : Statement (.inc m) := fun h =>
  forms_addressing h fun m h => by cases m <;> first | rfl | cases h

theorem dec (m : Addressing) : Statement (.dec m) := fun h =>
  forms_addressing h fun m h => by cases m <;> first | rfl | cases h

theorem inx : Statement .inx := fun _ => ⟨_, rfl, rfl⟩

theorem iny : Statement .iny := fun _ => ⟨_, rfl, rfl⟩

theorem dex : Statement .dex := fun _ => ⟨_, rfl, rfl⟩

theorem dey : Statement .dey := fun _ => ⟨_, rfl, rfl⟩

theorem bcc (off : Byte) : Statement (.bcc off) := fun _ => ⟨_, rfl, rfl⟩

theorem bcs (off : Byte) : Statement (.bcs off) := fun _ => ⟨_, rfl, rfl⟩

theorem beq (off : Byte) : Statement (.beq off) := fun _ => ⟨_, rfl, rfl⟩

theorem bne (off : Byte) : Statement (.bne off) := fun _ => ⟨_, rfl, rfl⟩

theorem bmi (off : Byte) : Statement (.bmi off) := fun _ => ⟨_, rfl, rfl⟩

theorem bpl (off : Byte) : Statement (.bpl off) := fun _ => ⟨_, rfl, rfl⟩

theorem bvc (off : Byte) : Statement (.bvc off) := fun _ => ⟨_, rfl, rfl⟩

theorem bvs (off : Byte) : Statement (.bvs off) := fun _ => ⟨_, rfl, rfl⟩

theorem jmp (t : JumpTarget) : Statement (.jmp t) := by
  intro _; cases t <;> exact ⟨_, rfl, rfl⟩

theorem jsr (w : Word) : Statement (.jsr w) := fun _ => ⟨_, rfl, rfl⟩

theorem rts : Statement .rts := fun _ => ⟨_, rfl, rfl⟩

theorem rti : Statement .rti := fun _ => ⟨_, rfl, rfl⟩

theorem brk : Statement .brk := fun _ => ⟨_, rfl, rfl⟩

theorem pha : Statement .pha := fun _ => ⟨_, rfl, rfl⟩

theorem pla : Statement .pla := fun _ => ⟨_, rfl, rfl⟩

theorem php : Statement .php := fun _ => ⟨_, rfl, rfl⟩

theorem plp : Statement .plp := fun _ => ⟨_, rfl, rfl⟩

theorem clc : Statement .clc := fun _ => ⟨_, rfl, rfl⟩

theorem sec : Statement .sec := fun _ => ⟨_, rfl, rfl⟩

theorem cld : Statement .cld := fun _ => ⟨_, rfl, rfl⟩

theorem sed : Statement .sed := fun _ => ⟨_, rfl, rfl⟩

theorem cli : Statement .cli := fun _ => ⟨_, rfl, rfl⟩

theorem sei : Statement .sei := fun _ => ⟨_, rfl, rfl⟩

theorem clv : Statement .clv := fun _ => ⟨_, rfl, rfl⟩

theorem nop : Statement .nop := fun _ => ⟨_, rfl, rfl⟩

theorem lax (m : Addressing) : Statement (.lax m) := fun h =>
  forms_addressing h fun m h => by cases m <;> first | rfl | cases h

theorem sax (m : Addressing) : Statement (.sax m) := fun h =>
  forms_addressing h fun m h => by cases m <;> first | rfl | cases h

theorem dcp (m : Addressing) : Statement (.dcp m) := fun h =>
  forms_addressing h fun m h => by cases m <;> first | rfl | cases h

theorem isb (m : Addressing) : Statement (.isb m) := fun h =>
  forms_addressing h fun m h => by cases m <;> first | rfl | cases h

theorem slo (m : Addressing) : Statement (.slo m) := fun h =>
  forms_addressing h fun m h => by cases m <;> first | rfl | cases h

theorem rla (m : Addressing) : Statement (.rla m) := fun h =>
  forms_addressing h fun m h => by cases m <;> first | rfl | cases h

theorem sre (m : Addressing) : Statement (.sre m) := fun h =>
  forms_addressing h fun m h => by cases m <;> first | rfl | cases h

theorem rra (m : Addressing) : Statement (.rra m) := fun h =>
  forms_addressing h fun m h => by cases m <;> first | rfl | cases h

theorem dop (op : Byte) (m : Operand) : Statement (.dop op m) := by
  intro h
  refine ⟨op, rfl, ?_⟩
  cases m with
  | imm b => rfl
  | acc => cases h
  | mem ad => exact addressing_bytes ad

theorem top (op : Byte) (m : Addressing) : Statement (.top op m) := fun _ => ⟨op, rfl, addressing_bytes m⟩

theorem nopStar (op : Byte) : Statement (.nopStar op) := fun _ => ⟨_, rfl, rfl⟩

theorem sbcStar (b : Byte) : Statement (.sbcStar b) := fun _ => ⟨_, rfl, rfl⟩

theorem aac (op : Byte) (b : Byte) : Statement (.aac op b) := fun _ => ⟨_, rfl, rfl⟩

theorem arr (b : Byte) : Statement (.arr b) := fun _ => ⟨_, rfl, rfl⟩

theorem asr (b : Byte) : Statement (.asr b) := fun _ => ⟨_, rfl, rfl⟩

theorem atx (b : Byte) : Statement (.atx b) := fun _ => ⟨_, rfl, rfl⟩

theorem axs (b : Byte) : Statement (.axs b) := fun _ => ⟨_, rfl, rfl⟩

theorem axa (m : Addressing) : Statement (.axa m) := fun h =>
  forms_addressing h fun m h => by cases m <;> first | rfl | cases h

theorem sxa (w : Word) : Statement (.sxa w) := fun _ => ⟨_, rfl, rfl⟩

theorem sya (w : Word) : Statement (.sya w) := fun _ => ⟨_, rfl, rfl⟩

theorem xas (w : Word) : Statement (.xas w) := fun _ => ⟨_, rfl, rfl⟩

theorem lar (w : Word) : Statement (.lar w) := fun _ => ⟨_, rfl, rfl⟩

theorem kil (op : Byte) : Statement (.kil op) := fun _ => ⟨_, rfl, rfl⟩

theorem xaa (bytes : Byte × Byte) : Statement (.xaa bytes) := fun _ => ⟨_, rfl, rfl⟩

end Sys2Proof.Laws.Encoding
end

