-- ==== Sys2Proof/Tests/Slice0.lean ====
section
/-! SUPPORT. The model's own tests: ill-formed terms the check refuses, every constructor's decoding shown by a word
written bit by bit from the opcode byte its rule gives it, one step on a small state for each instruction, and a witness for
the hypotheses of each statement of Certificates/Slice0/Obligations.lean that has any. The expected result of a test named
with a V number is the vector of that number of 95_test_vectors.md, part 2, whose set-up is decision D19. -/

namespace Sys2Proof.Tests

open Sys2Proof Sys2Proof.Machine

/-! ### Ill-formed terms -/

theorem test_illformed_loads_stores :
    (Instr.lda .acc).wellFormed = false ∧ (Instr.lda (.mem (.zpy 0))).wellFormed = false ∧
    (Instr.ldx (.mem (.zpx 0))).wellFormed = false ∧ (Instr.ldx (.mem (.inx 0))).wellFormed = false ∧
    (Instr.ldy (.mem (.zpy 0))).wellFormed = false ∧ (Instr.ldy (.mem (.aby 0))).wellFormed = false ∧
    (Instr.sta (.zpy 0)).wellFormed = false ∧ (Instr.stx (.zpx 0)).wellFormed = false ∧
    (Instr.sty (.zpy 0)).wellFormed = false := by decide

theorem test_illformed_arithmetic_logic :
    (Instr.adc .acc).wellFormed = false ∧ (Instr.sbc (.mem (.zpy 0))).wellFormed = false ∧
    (Instr.and .acc).wellFormed = false ∧ (Instr.ora (.mem (.zpy 0))).wellFormed = false ∧
    (Instr.eor .acc).wellFormed = false ∧ (Instr.cmp (.mem (.zpy 0))).wellFormed = false ∧
    (Instr.cpx (.mem (.zpx 0))).wellFormed = false ∧ (Instr.cpy (.mem (.abx 0))).wellFormed = false ∧
    (Instr.bit (.abx 0)).wellFormed = false := by decide

theorem test_illformed_shifts_steps :
    (Instr.asl (.imm 0)).wellFormed = false ∧ (Instr.lsr (.mem (.aby 0))).wellFormed = false ∧
    (Instr.rol (.mem (.iny 0))).wellFormed = false ∧ (Instr.ror (.mem (.zpy 0))).wellFormed = false ∧
    (Instr.inc (.aby 0)).wellFormed = false ∧ (Instr.dec (.inx 0)).wellFormed = false := by decide

theorem test_illformed_undocumented :
    (Instr.lax (.zpx 0)).wellFormed = false ∧ (Instr.sax (.iny 0)).wellFormed = false ∧
    (Instr.dcp (.zpy 0)).wellFormed = false ∧ (Instr.isb (.zpy 0)).wellFormed = false ∧
    (Instr.slo (.zpy 0)).wellFormed = false ∧ (Instr.rla (.zpy 0)).wellFormed = false ∧
    (Instr.sre (.zpy 0)).wellFormed = false ∧ (Instr.rra (.zpy 0)).wellFormed = false ∧
    (Instr.axa (.abx 0)).wellFormed = false := by decide

theorem test_illformed_opcode_carriers :
    (Instr.dop 0x04 (.imm 0)).wellFormed = false ∧ (Instr.dop 0x80 (.mem (.zp 0))).wellFormed = false ∧
    (Instr.dop 0x80 .acc).wellFormed = false ∧ (Instr.top 0x1C (.abs 0)).wellFormed = false ∧
    (Instr.top 0x0C (.aby 0)).wellFormed = false ∧ (Instr.nopStar 0xEA).wellFormed = false ∧
    (Instr.aac 0x29 0).wellFormed = false ∧ (Instr.kil 0x82).wellFormed = false ∧
    (Instr.xaa (0x8A, 0)).wellFormed = false := by decide

/-! ### Decoding -/

/-- loads, stores, transfers (41_load_store_transfer.md). -/
theorem test_decode_loads_stores_transfers :
    decode [0b10111101, 0x34, 0x12] = .ok (.lda (.mem (.abx 0x1234)), []) ∧
    decode [0b10111110, 0x34, 0x12] = .ok (.ldx (.mem (.aby 0x1234)), []) ∧
    decode [0b10111100, 0x34, 0x12] = .ok (.ldy (.mem (.abx 0x1234)), []) ∧
    decode [0b10011101, 0x34, 0x12] = .ok (.sta (.abx 0x1234), []) ∧
    decode [0b10010110, 0x34] = .ok (.stx (.zpy 0x34), []) ∧
    decode [0b10010100, 0x34] = .ok (.sty (.zpx 0x34), []) ∧
    decode [0b10101010] = .ok (.tax, []) ∧
    decode [0b10101000] = .ok (.tay, []) ∧
    decode [0b10111010] = .ok (.tsx, []) ∧
    decode [0b10001010] = .ok (.txa, []) ∧
    decode [0b10011000] = .ok (.tya, []) ∧
    decode [0b10011010] = .ok (.txs, []) := by
  and_intros <;> rfl

/-- arithmetic, logic, compares, bit test (42_arithmetic_logic.md). -/
theorem test_decode_arithmetic_logic :
    decode [0b01111101, 0x34, 0x12] = .ok (.adc (.mem (.abx 0x1234)), []) ∧
    decode [0b11111101, 0x34, 0x12] = .ok (.sbc (.mem (.abx 0x1234)), []) ∧
    decode [0b00111101, 0x34, 0x12] = .ok (.and (.mem (.abx 0x1234)), []) ∧
    decode [0b00011101, 0x34, 0x12] = .ok (.ora (.mem (.abx 0x1234)), []) ∧
    decode [0b01011101, 0x34, 0x12] = .ok (.eor (.mem (.abx 0x1234)), []) ∧
    decode [0b11011101, 0x34, 0x12] = .ok (.cmp (.mem (.abx 0x1234)), []) ∧
    decode [0b11101100, 0x34, 0x12] = .ok (.cpx (.mem (.abs 0x1234)), []) ∧
    decode [0b11001100, 0x34, 0x12] = .ok (.cpy (.mem (.abs 0x1234)), []) ∧
    decode [0b00101100, 0x34, 0x12] = .ok (.bit (.abs 0x1234), []) := by
  and_intros <;> rfl

/-- shifts, rotates, increments, decrements (43_shift_incdec.md). -/
theorem test_decode_shifts_steps :
    decode [0b00011110, 0x34, 0x12] = .ok (.asl (.mem (.abx 0x1234)), []) ∧
    decode [0b01011110, 0x34, 0x12] = .ok (.lsr (.mem (.abx 0x1234)), []) ∧
    decode [0b00111110, 0x34, 0x12] = .ok (.rol (.mem (.abx 0x1234)), []) ∧
    decode [0b01111110, 0x34, 0x12] = .ok (.ror (.mem (.abx 0x1234)), []) ∧
    decode [0b11111110, 0x34, 0x12] = .ok (.inc (.abx 0x1234), []) ∧
    decode [0b11011110, 0x34, 0x12] = .ok (.dec (.abx 0x1234), []) ∧
    decode [0b11101000] = .ok (.inx, []) ∧
    decode [0b11001000] = .ok (.iny, []) ∧
    decode [0b11001010] = .ok (.dex, []) ∧
    decode [0b10001000] = .ok (.dey, []) := by
  and_intros <;> rfl

/-- branches, jumps, subroutines, returns, BRK (44_control_stack_flags.md). -/
theorem test_decode_control :
    decode [0b10010000, 0x34] = .ok (.bcc 0x34, []) ∧
    decode [0b10110000, 0x34] = .ok (.bcs 0x34, []) ∧
    decode [0b11110000, 0x34] = .ok (.beq 0x34, []) ∧
    decode [0b11010000, 0x34] = .ok (.bne 0x34, []) ∧
    decode [0b00110000, 0x34] = .ok (.bmi 0x34, []) ∧
    decode [0b00010000, 0x34] = .ok (.bpl 0x34, []) ∧
    decode [0b01010000, 0x34] = .ok (.bvc 0x34, []) ∧
    decode [0b01110000, 0x34] = .ok (.bvs 0x34, []) ∧
    decode [0b01101100, 0x34, 0x12] = .ok (.jmp (.ind 0x1234), []) ∧
    decode [0b00100000, 0x34, 0x12] = .ok (.jsr 0x1234, []) ∧
    decode [0b01100000] = .ok (.rts, []) ∧
    decode [0b01000000] = .ok (.rti, []) ∧
    decode [0b00000000] = .ok (.brk, []) := by
  and_intros <;> rfl

/-- stack and flag instructions, NOP (44_control_stack_flags.md). -/
theorem test_decode_stack_flags :
    decode [0b01001000] = .ok (.pha, []) ∧
    decode [0b01101000] = .ok (.pla, []) ∧
    decode [0b00001000] = .ok (.php, []) ∧
    decode [0b00101000] = .ok (.plp, []) ∧
    decode [0b00011000] = .ok (.clc, []) ∧
    decode [0b00111000] = .ok (.sec, []) ∧
    decode [0b11011000] = .ok (.cld, []) ∧
    decode [0b11111000] = .ok (.sed, []) ∧
    decode [0b01011000] = .ok (.cli, []) ∧
    decode [0b01111000] = .ok (.sei, []) ∧
    decode [0b10111000] = .ok (.clv, []) ∧
    decode [0b11101010] = .ok (.nop, []) := by
  and_intros <;> rfl

/-- undocumented instructions (45_undocumented.md). -/
theorem test_decode_undocumented :
    decode [0b10111111, 0x34, 0x12] = .ok (.lax (.aby 0x1234), []) ∧
    decode [0b10010111, 0x34] = .ok (.sax (.zpy 0x34), []) ∧
    decode [0b11011111, 0x34, 0x12] = .ok (.dcp (.abx 0x1234), []) ∧
    decode [0b11111111, 0x34, 0x12] = .ok (.isb (.abx 0x1234), []) ∧
    decode [0b00011111, 0x34, 0x12] = .ok (.slo (.abx 0x1234), []) ∧
    decode [0b00111111, 0x34, 0x12] = .ok (.rla (.abx 0x1234), []) ∧
    decode [0b01011111, 0x34, 0x12] = .ok (.sre (.abx 0x1234), []) ∧
    decode [0b01111111, 0x34, 0x12] = .ok (.rra (.abx 0x1234), []) ∧
    decode [0b11110100, 0x34] = .ok (.dop 0xF4 (.mem (.zpx 0x34)), []) ∧
    decode [0b11111100, 0x34, 0x12] = .ok (.top 0xFC (.abx 0x1234), []) ∧
    decode [0b11111010] = .ok (.nopStar 0xFA, []) ∧
    decode [0b11101011, 0x34] = .ok (.sbcStar 0x34, []) ∧
    decode [0b00101011, 0x34] = .ok (.aac 0x2B 0x34, []) ∧
    decode [0b01101011, 0x34] = .ok (.arr 0x34, []) ∧
    decode [0b01001011, 0x34] = .ok (.asr 0x34, []) ∧
    decode [0b10101011, 0x34] = .ok (.atx 0x34, []) ∧
    decode [0b11001011, 0x34] = .ok (.axs 0x34, []) ∧
    decode [0b10011111, 0x34, 0x12] = .ok (.axa (.aby 0x1234), []) ∧
    decode [0b10011110, 0x34, 0x12] = .ok (.sxa 0x1234, []) ∧
    decode [0b10011100, 0x34, 0x12] = .ok (.sya 0x1234, []) ∧
    decode [0b10011011, 0x34, 0x12] = .ok (.xas 0x1234, []) ∧
    decode [0b10111011, 0x34, 0x12] = .ok (.lar 0x1234, []) ∧
    decode [0b11110010] = .ok (.kil 0xF2, []) ∧
    decode [0b10001011, 0x34] = .ok (.xaa (0x8B, 0x34), []) := by
  and_intros <;> rfl

/-- The truncated and the empty byte lists are rejected by name. -/
theorem test_decode_rejects :
    decode [] = .error .noBytes ∧ decode [0xA9] = .error (.truncated 0xA9) ∧
    decode [0x20, 0x05] = .error (.truncated 0x20) := by and_intros <;> rfl

/-- The table's numbering of bits: the second byte is bits 15 to 8 (30_encoding.md R91). -/
theorem test_decode_table_word :
    decodeTableWord 8 0xA9 = some (.lda (.imm 0x00)) ∧ decodeTableWord 24 0x123420 = some (.jsr 0x1234) := by decide

/-- Under another `OPTABLE` (R7, D1) the row decides: `0x00` as `LDA` Immediate, `0xA9` absent, `0xEA` as `LDA` in a mode it
does not have, `0x01` as `XAA`; other bytes keep their default row. -/
def otherTable : List (Byte × Option OpcodeRow) :=
  [(0x00, some ⟨.lda, .immediate, 2⟩), (0xA9, none), (0xEA, some ⟨.lda, .zeroPageY, 4⟩), (0x01, some ⟨.xaa, .immediate, 2⟩)]

theorem test_decode_other_table :
    decodeWith otherTable [0x00, 0x05] = .ok (.lda (.imm 0x05), []) ∧
    decodeWith otherTable [0xA9, 0x05] = .error (.unknownOpcode 0xA9) ∧
    decodeWith otherTable [0xEA, 0x05] = .error (.noRule 0xEA) ∧
    decodeWith otherTable [0x01, 0x05] = .ok (.xaa (0x01, 0x05), []) ∧
    decodeWith otherTable [0xAA] = .ok (.tax, []) := by and_intros <;> rfl

/-! ### One step of each instruction -/

/-- A state with bytes put at an address and `pc` there. -/
def start (at_ : Nat) (bytes : List Nat) (s : State) : State :=
  { (bytes.zipIdx.foldl (fun s b => placeByte (BitVec.ofNat 16 (at_ + b.2)) (BitVec.ofNat 8 b.1) s) s) with
    pc := BitVec.ofNat 16 at_ }

/-- `A X Y SP P pc` after, and the bytes stored at the addresses given. -/
def seen (r : Result) (addrs : List Nat) : List Nat × List Nat :=
  match r with
  | .next t =>
    ([t.a.toNat, t.x.toNat, t.y.toNat, t.sp.toNat, t.p.toNat, t.pc.toNat],
      addrs.map fun a => ((storedByte t (BitVec.ofNat 16 a)).getD 0).toNat)
  | .fault _ => ([], [])
  | .refused _ => ([], [])

/-- The fatal condition a step stops with. -/
def stopped (r : Result) : Option FatalCondition :=
  match r with
  | .fault (.fatal c _) => some c
  | .fault (.notRunning _) => none
  | .next _ => none
  | .refused _ => none

/-- The configuration with `BRK_MODE = vectored`. -/
def vectored : Config := { defaultConfig with brkMode := .vectored }

theorem test_lda_V9 : seen (step (start 0x8000 [0xA1, 0xFE]
    { State.reset with x := 0x01, mem := [(0x000, 0x02), (0x0FF, 0x34), (0x234, 0xAB)] })) [] =
    ([0xAB, 0x01, 0x00, 0xFD, 0xA4, 0x8002], []) := by decide

theorem test_lda_V10 : seen (step (start 0x8000 [0xB1, 0x20]
    { State.reset with y := 0x20, mem := [(0x020, 0xF0), (0x021, 0x02), (0x310, 0xCD)] })) [] =
    ([0xCD, 0x00, 0x20, 0xFD, 0xA4, 0x8002], []) := by decide

theorem test_ldx_V5 : seen (step (start 0x8000 [0xB6, 0xF0]
    { State.reset with y := 0x20, mem := [(0x010, 0x33)] })) [] =
    ([0x00, 0x33, 0x20, 0xFD, 0x24, 0x8002], []) := by decide

theorem test_ldx_V15 : seen (step (start 0x8000 [0xA2, 0x80]
    State.reset)) [] =
    ([0x00, 0x80, 0x00, 0xFD, 0xA4, 0x8002], []) := by decide

theorem test_ldy_V16 : seen (step (start 0x8000 [0xA0, 0x00]
    { State.reset with y := 0x07 })) [] =
    ([0x00, 0x00, 0x00, 0xFD, 0x26, 0x8002], []) := by decide

theorem test_sta_V18 : seen (step (start 0x8000 [0x8D, 0x00, 0x18]
    { State.reset with a := 0x5A })) [0x0000] =
    ([0x5A, 0x00, 0x00, 0xFD, 0x24, 0x8003], [0x5A]) := by decide

theorem test_sta_V23 : seen (step (start 0x8000 [0x91, 0x20]
    { State.reset with a := 0x77, y := 0xFF, mem := [(0x020, 0x01), (0x021, 0x02)] })) [0x0300] =
    ([0x77, 0x00, 0xFF, 0xFD, 0x24, 0x8002], [0x77]) := by decide

theorem test_stx_V22 : seen (step (start 0x8000 [0x96, 0xFF]
    { State.reset with x := 0x11, y := 0x02 })) [0x0001] =
    ([0x00, 0x11, 0x02, 0xFD, 0x24, 0x8002], [0x11]) := by decide

theorem test_sty_V24 : seen (step (start 0x8000 [0x84, 0x10]
    { State.reset with y := 0x80 })) [0x0010] =
    ([0x00, 0x00, 0x80, 0xFD, 0x24, 0x8002], [0x80]) := by decide

theorem test_tax_V25 : seen (step (start 0x8000 [0xAA]
    { State.reset with a := 0x80 })) [] =
    ([0x80, 0x80, 0x00, 0xFD, 0xA4, 0x8001], []) := by decide

theorem test_tay_V26 : seen (step (start 0x8000 [0xA8]
    { State.reset with a := 0x00, y := 0x05 })) [] =
    ([0x00, 0x00, 0x00, 0xFD, 0x26, 0x8001], []) := by decide

theorem test_tsx_V27 : seen (step (start 0x8000 [0xBA]
    State.reset)) [] =
    ([0x00, 0xFD, 0x00, 0xFD, 0xA4, 0x8001], []) := by decide

theorem test_txa_V28 : seen (step (start 0x8000 [0x8A]
    { State.reset with x := 0x00, a := 0x05 })) [] =
    ([0x00, 0x00, 0x00, 0xFD, 0x26, 0x8001], []) := by decide

theorem test_tya_V29 : seen (step (start 0x8000 [0x98]
    { State.reset with y := 0x7F })) [] =
    ([0x7F, 0x00, 0x7F, 0xFD, 0x24, 0x8001], []) := by decide

theorem test_txs_V30 : seen (step (start 0x8000 [0x9A]
    { State.reset with x := 0x00 })) [] =
    ([0x00, 0x00, 0x00, 0x00, 0x24, 0x8001], []) := by decide

theorem test_adc_V44 : seen (step (start 0x8000 [0x69, 0x80]
    { State.reset with a := 0x80 })) [] =
    ([0x00, 0x00, 0x00, 0xFD, 0x67, 0x8002], []) := by decide

theorem test_adc_V45 : seen (step (start 0x8000 [0x69, 0x00]
    { State.reset with a := 0x7F, p := 0x25 })) [] =
    ([0x80, 0x00, 0x00, 0xFD, 0xE4, 0x8002], []) := by decide

theorem test_sbc_V52 : seen (step (start 0x8000 [0xE9, 0xB0]
    { State.reset with a := 0x50, p := 0x25 })) [] =
    ([0xA0, 0x00, 0x00, 0xFD, 0xE4, 0x8002], []) := by decide

theorem test_sbc_V55 : seen (step (start 0x8000 [0xE9, 0x00]
    { State.reset with a := 0x00 })) [] =
    ([0xFF, 0x00, 0x00, 0xFD, 0xA4, 0x8002], []) := by decide

theorem test_and_V60 : seen (step (start 0x8000 [0x29, 0x0F]
    { State.reset with a := 0xF0 })) [] =
    ([0x00, 0x00, 0x00, 0xFD, 0x26, 0x8002], []) := by decide

theorem test_ora_V62 : seen (step (start 0x8000 [0x09, 0x00]
    { State.reset with a := 0x00 })) [] =
    ([0x00, 0x00, 0x00, 0xFD, 0x26, 0x8002], []) := by decide

theorem test_eor_V64 : seen (step (start 0x8000 [0x49, 0xFF]
    { State.reset with a := 0xFF })) [] =
    ([0x00, 0x00, 0x00, 0xFD, 0x26, 0x8002], []) := by decide

theorem test_cmp_V68 : seen (step (start 0x8000 [0xC9, 0x10]
    { State.reset with a := 0x90 })) [] =
    ([0x90, 0x00, 0x00, 0xFD, 0xA5, 0x8002], []) := by decide

theorem test_cmp_V69 : seen (step (start 0x8000 [0xC9, 0xFF]
    { State.reset with a := 0x00 })) [] =
    ([0x00, 0x00, 0x00, 0xFD, 0x24, 0x8002], []) := by decide

theorem test_cpx_V71 : seen (step (start 0x8000 [0xE0, 0x10]
    { State.reset with x := 0x10 })) [] =
    ([0x00, 0x10, 0x00, 0xFD, 0x27, 0x8002], []) := by decide

theorem test_cpx_V73 : seen (step (start 0x8000 [0xE4, 0x10]
    { State.reset with x := 0x05, mem := [(0x010, 0x04)] })) [] =
    ([0x00, 0x05, 0x00, 0xFD, 0x25, 0x8002], []) := by decide

theorem test_cpy_V72 : seen (step (start 0x8000 [0xC0, 0x02]
    { State.reset with y := 0x01 })) [] =
    ([0x00, 0x00, 0x01, 0xFD, 0xA4, 0x8002], []) := by decide

theorem test_bit_V74 : seen (step (start 0x8000 [0x24, 0x10]
    { State.reset with a := 0x01, mem := [(0x010, 0xC0)] })) [] =
    ([0x01, 0x00, 0x00, 0xFD, 0xE6, 0x8002], []) := by decide

theorem test_bit_V76 : seen (step (start 0x8000 [0x2C, 0x00, 0x02]
    { State.reset with a := 0x0F, mem := [(0x200, 0x4F)] })) [] =
    ([0x0F, 0x00, 0x00, 0xFD, 0x64, 0x8003], []) := by decide

theorem test_asl_V80 : seen (step (start 0x8000 [0x0A]
    { State.reset with a := 0x81 })) [] =
    ([0x02, 0x00, 0x00, 0xFD, 0x25, 0x8001], []) := by decide

theorem test_asl_V91 : seen (step (start 0x8000 [0x06, 0x10]
    { State.reset with mem := [(0x010, 0xC1)] })) [0x0010] =
    ([0x00, 0x00, 0x00, 0xFD, 0xA5, 0x8002], [0x82]) := by decide

theorem test_lsr_V84 : seen (step (start 0x8000 [0x4A]
    { State.reset with a := 0x01, p := 0xA4 })) [] =
    ([0x00, 0x00, 0x00, 0xFD, 0x27, 0x8001], []) := by decide

theorem test_lsr_V92 : seen (step (start 0x8000 [0x5E, 0x00, 0x02]
    { State.reset with x := 0x01, mem := [(0x201, 0x01)] })) [0x0201] =
    ([0x00, 0x01, 0x00, 0xFD, 0x27, 0x8003], [0x00]) := by decide

theorem test_rol_V87 : seen (step (start 0x8000 [0x2A]
    { State.reset with a := 0x40, p := 0x25 })) [] =
    ([0x81, 0x00, 0x00, 0xFD, 0xA4, 0x8001], []) := by decide

theorem test_rol_V93 : seen (step (start 0x8000 [0x36, 0xFF]
    { State.reset with x := 0x01, p := 0x25, mem := [(0x000, 0x7F)] })) [0x0000] =
    ([0x00, 0x01, 0x00, 0xFD, 0xA4, 0x8002], [0xFF]) := by decide

theorem test_ror_V88 : seen (step (start 0x8000 [0x6A]
    { State.reset with a := 0x01, p := 0x25 })) [] =
    ([0x80, 0x00, 0x00, 0xFD, 0xA5, 0x8001], []) := by decide

theorem test_ror_V94 : seen (step (start 0x8000 [0x6E, 0x00, 0x03]
    { State.reset with p := 0x25 })) [0x0300] =
    ([0x00, 0x00, 0x00, 0xFD, 0xA4, 0x8003], [0x80]) := by decide

theorem test_inc_V98 : seen (step (start 0x8000 [0xE6, 0x10]
    { State.reset with mem := [(0x010, 0xFF)] })) [0x0010] =
    ([0x00, 0x00, 0x00, 0xFD, 0x26, 0x8002], [0x00]) := by decide

theorem test_inc_V99 : seen (step (start 0x8000 [0xE6, 0x10]
    { State.reset with mem := [(0x010, 0x7F)] })) [0x0010] =
    ([0x00, 0x00, 0x00, 0xFD, 0xA4, 0x8002], [0x80]) := by decide

theorem test_dec_V100 : seen (step (start 0x8000 [0xC6, 0x10]
    State.reset)) [0x0010] =
    ([0x00, 0x00, 0x00, 0xFD, 0xA4, 0x8002], [0xFF]) := by decide

theorem test_dec_V101 : seen (step (start 0x8000 [0xDE, 0x00, 0x02]
    { State.reset with x := 0xFF, mem := [(0x2FF, 0x01)] })) [0x02FF] =
    ([0x00, 0xFF, 0x00, 0xFD, 0x26, 0x8003], [0x00]) := by decide

theorem test_inx_V103 : seen (step (start 0x8000 [0xE8]
    { State.reset with x := 0xFF })) [] =
    ([0x00, 0x00, 0x00, 0xFD, 0x26, 0x8001], []) := by decide

theorem test_iny_V105 : seen (step (start 0x8000 [0xC8]
    { State.reset with y := 0xFF })) [] =
    ([0x00, 0x00, 0x00, 0xFD, 0x26, 0x8001], []) := by decide

theorem test_dex_V106 : seen (step (start 0x8000 [0xCA]
    { State.reset with x := 0x00 })) [] =
    ([0x00, 0xFF, 0x00, 0xFD, 0xA4, 0x8001], []) := by decide

theorem test_dey_V108 : seen (step (start 0x8000 [0x88]
    { State.reset with y := 0x00 })) [] =
    ([0x00, 0x00, 0xFF, 0xFD, 0xA4, 0x8001], []) := by decide

theorem test_bcc_V120 : seen (step (start 0x8000 [0x90, 0x02]
    State.reset)) [] =
    ([0x00, 0x00, 0x00, 0xFD, 0x24, 0x8004], []) := by decide

theorem test_bcc_V121 : seen (step (start 0x8000 [0x90, 0x02]
    { State.reset with p := 0x25 })) [] =
    ([0x00, 0x00, 0x00, 0xFD, 0x25, 0x8002], []) := by decide

theorem test_bcs_V122 : seen (step (start 0x8000 [0xB0, 0x10]
    { State.reset with p := 0x25 })) [] =
    ([0x00, 0x00, 0x00, 0xFD, 0x25, 0x8012], []) := by decide

theorem test_beq_V123 : seen (step (start 0x8000 [0xF0, 0xFC]
    { State.reset with p := 0x26 })) [] =
    ([0x00, 0x00, 0x00, 0xFD, 0x26, 0x7FFE], []) := by decide

theorem test_bne_V124 : seen (step (start 0x8004 [0xD0, 0xFA]
    State.reset)) [] =
    ([0x00, 0x00, 0x00, 0xFD, 0x24, 0x8000], []) := by decide

theorem test_bne_V125 : seen (step (start 0x8004 [0xD0, 0xFA]
    { State.reset with p := 0x26 })) [] =
    ([0x00, 0x00, 0x00, 0xFD, 0x26, 0x8006], []) := by decide

theorem test_bmi_V126 : seen (step (start 0x0200 [0x30, 0x7F]
    { State.reset with p := 0xA4 })) [] =
    ([0x00, 0x00, 0x00, 0xFD, 0xA4, 0x0281], []) := by decide

theorem test_bpl_V127 : seen (step (start 0x0200 [0x10, 0x80]
    State.reset)) [] =
    ([0x00, 0x00, 0x00, 0xFD, 0x24, 0x0182], []) := by decide

theorem test_bvc_V128 : seen (step (start 0x8000 [0x50, 0x00]
    State.reset)) [] =
    ([0x00, 0x00, 0x00, 0xFD, 0x24, 0x8002], []) := by decide

theorem test_bvs_V129 : seen (step (start 0x8000 [0x70, 0x04]
    { State.reset with p := 0x64 })) [] =
    ([0x00, 0x00, 0x00, 0xFD, 0x64, 0x8006], []) := by decide

theorem test_bvs_V130 : seen (step (start 0x8000 [0x70, 0x04]
    State.reset)) [] =
    ([0x00, 0x00, 0x00, 0xFD, 0x24, 0x8002], []) := by decide

theorem test_jmp_V140 : seen (step (start 0x8000 [0x4C, 0x00, 0xC0]
    State.reset)) [] =
    ([0x00, 0x00, 0x00, 0xFD, 0x24, 0xC000], []) := by decide

theorem test_jmp_V143 : seen (step (start 0x8000 [0x6C, 0xFF, 0x02]
    { State.reset with mem := [(0x200, 0x78), (0x2FF, 0x34), (0x300, 0x12)] })) [] =
    ([0x00, 0x00, 0x00, 0xFD, 0x24, 0x7834], []) := by decide

theorem test_jsr_V144 : seen (step (start 0x8000 [0x20, 0x05, 0x80]
    State.reset)) [0x01FD, 0x01FC] =
    ([0x00, 0x00, 0x00, 0xFB, 0x24, 0x8005], [0x80, 0x02]) := by decide

theorem test_jsr_V145 : seen (step (start 0x8000 [0x20, 0x34, 0x12]
    { State.reset with sp := 0x00 })) [0x0100, 0x01FF] =
    ([0x00, 0x00, 0x00, 0xFE, 0x24, 0x1234], [0x80, 0x02]) := by decide

theorem test_rts_V146 : seen (step (start 0x8000 [0x60]
    { State.reset with sp := 0xFB, mem := [(0x1FC, 0x02), (0x1FD, 0x80)] })) [] =
    ([0x00, 0x00, 0x00, 0xFD, 0x24, 0x8003], []) := by decide

theorem test_rts_V148 : seen (step (start 0x8000 [0x60]
    { State.reset with sp := 0xFE, mem := [(0x100, 0x44), (0x1FF, 0x33)] })) [] =
    ([0x00, 0x00, 0x00, 0x00, 0x24, 0x4434], []) := by decide

theorem test_rti_V149 : seen (step (start 0x8000 [0x40]
    { State.reset with sp := 0xFA, mem := [(0x1FB, 0xFF), (0x1FC, 0x34), (0x1FD, 0x12)] })) [] =
    ([0x00, 0x00, 0x00, 0xFD, 0xEF, 0x1234], []) := by decide

theorem test_rti_V150 : seen (step (start 0x8000 [0x40]
    { State.reset with sp := 0xFA, mem := [(0x1FD, 0x80)] })) [] =
    ([0x00, 0x00, 0x00, 0xFD, 0x20, 0x8000], []) := by decide

theorem test_brk_V151 : seen (step (start 0x8000 [0x00]
    { State.reset with a := 0x07 })) [] =
    ([0x07, 0x00, 0x00, 0xFD, 0x24, 0x8000], []) := by decide

theorem test_brk_V153 : seen (step (start 0x0300 [0x00]
    { State.reset with sp := 0x01, p := 0x20, cfg := vectored, mem := [(0xBFFF, 0x90)] })) [0x0101, 0x0100, 0x01FF] =
    ([0x00, 0x00, 0x00, 0xFE, 0x24, 0x9000], [0x03, 0x02, 0x30]) := by decide

theorem test_pha_V160 : seen (step (start 0x8000 [0x48]
    { State.reset with a := 0x42 })) [0x01FD] =
    ([0x42, 0x00, 0x00, 0xFC, 0x24, 0x8001], [0x42]) := by decide

theorem test_pha_V161 : seen (step (start 0x8000 [0x48]
    { State.reset with a := 0x42, sp := 0x00 })) [0x0100] =
    ([0x42, 0x00, 0x00, 0xFF, 0x24, 0x8001], [0x42]) := by decide

theorem test_pla_V162 : seen (step (start 0x8000 [0x68]
    { State.reset with sp := 0xFC, a := 0x55 })) [] =
    ([0x00, 0x00, 0x00, 0xFD, 0x26, 0x8001], []) := by decide

theorem test_pla_V163 : seen (step (start 0x8000 [0x68]
    { State.reset with sp := 0xFF, mem := [(0x100, 0x80)] })) [] =
    ([0x80, 0x00, 0x00, 0x00, 0xA4, 0x8001], []) := by decide

theorem test_php_V165 : seen (step (start 0x8000 [0x08]
    { State.reset with p := 0xE7 })) [0x01FD] =
    ([0x00, 0x00, 0x00, 0xFC, 0xE7, 0x8001], [0xF7]) := by decide

theorem test_plp_V166 : seen (step (start 0x8000 [0x28]
    { State.reset with sp := 0xFC, mem := [(0x1FD, 0xFF)] })) [] =
    ([0x00, 0x00, 0x00, 0xFD, 0xEF, 0x8001], []) := by decide

theorem test_plp_V167 : seen (step (start 0x8000 [0x28]
    { State.reset with sp := 0xFC })) [] =
    ([0x00, 0x00, 0x00, 0xFD, 0x20, 0x8001], []) := by decide

theorem test_clc_V169 : seen (step (start 0x8000 [0x18]
    { State.reset with p := 0x25 })) [] =
    ([0x00, 0x00, 0x00, 0xFD, 0x24, 0x8001], []) := by decide

theorem test_sec_V170 : seen (step (start 0x8000 [0x38]
    State.reset)) [] =
    ([0x00, 0x00, 0x00, 0xFD, 0x25, 0x8001], []) := by decide

theorem test_cld_V172 : seen (step (start 0x8000 [0xD8]
    { State.reset with p := 0x2C })) [] =
    ([0x00, 0x00, 0x00, 0xFD, 0x24, 0x8001], []) := by decide

theorem test_sed_V173 : seen (step (start 0x8000 [0xF8]
    State.reset)) [] =
    ([0x00, 0x00, 0x00, 0xFD, 0x2C, 0x8001], []) := by decide

theorem test_cli_V174 : seen (step (start 0x8000 [0x58]
    State.reset)) [] =
    ([0x00, 0x00, 0x00, 0xFD, 0x20, 0x8001], []) := by decide

theorem test_sei_V175 : seen (step (start 0x8000 [0x78]
    { State.reset with p := 0x20 })) [] =
    ([0x00, 0x00, 0x00, 0xFD, 0x24, 0x8001], []) := by decide

theorem test_clv_V176 : seen (step (start 0x8000 [0xB8]
    { State.reset with p := 0x64 })) [] =
    ([0x00, 0x00, 0x00, 0xFD, 0x24, 0x8001], []) := by decide

theorem test_nop_V177 : seen (step (start 0x8000 [0xEA]
    { State.reset with a := 0x12, p := 0xE7 })) [] =
    ([0x12, 0x00, 0x00, 0xFD, 0xE7, 0x8001], []) := by decide

theorem test_lax_V200 : seen (step (start 0x8000 [0xA7, 0x10]
    { State.reset with mem := [(0x010, 0x8F)] })) [] =
    ([0x8F, 0x8F, 0x00, 0xFD, 0xA4, 0x8002], []) := by decide

theorem test_lax_V201 : seen (step (start 0x8000 [0xB7, 0xFF]
    { State.reset with y := 0x02, a := 0x55, x := 0x55 })) [] =
    ([0x00, 0x00, 0x02, 0xFD, 0x26, 0x8002], []) := by decide

theorem test_sax_V203 : seen (step (start 0x8000 [0x87, 0x10]
    { State.reset with a := 0xF0, x := 0x3C })) [0x0010] =
    ([0xF0, 0x3C, 0x00, 0xFD, 0x24, 0x8002], [0x30]) := by decide

theorem test_sax_V204 : seen (step (start 0x8000 [0x83, 0xFE]
    { State.reset with a := 0xAA, x := 0x01, p := 0xA5, mem := [(0x000, 0x03), (0x300, 0xFF)] })) [0x0300] =
    ([0xAA, 0x01, 0x00, 0xFD, 0xA5, 0x8002], [0x00]) := by decide

theorem test_dcp_V206 : seen (step (start 0x8000 [0xC7, 0x10]
    { State.reset with a := 0x05, mem := [(0x010, 0x06)] })) [0x0010] =
    ([0x05, 0x00, 0x00, 0xFD, 0x27, 0x8002], [0x05]) := by decide

theorem test_dcp_V208 : seen (step (start 0x8000 [0xDB, 0x00, 0x02]
    { State.reset with a := 0x80, y := 0x01, mem := [(0x201, 0x01)] })) [0x0201] =
    ([0x80, 0x00, 0x01, 0xFD, 0xA5, 0x8003], [0x00]) := by decide

theorem test_isb_V210 : seen (step (start 0x8000 [0xE7, 0x10]
    { State.reset with a := 0x10, mem := [(0x010, 0xFF)] })) [0x0010] =
    ([0x0F, 0x00, 0x00, 0xFD, 0x25, 0x8002], [0x00]) := by decide

theorem test_isb_V211 : seen (step (start 0x8000 [0xFF, 0x00, 0x02]
    { State.reset with a := 0x80, x := 0x02, p := 0x25 })) [0x0202] =
    ([0x7F, 0x02, 0x00, 0xFD, 0x65, 0x8003], [0x01]) := by decide

theorem test_slo_V212 : seen (step (start 0x8000 [0x07, 0x10]
    { State.reset with a := 0x01, mem := [(0x010, 0xC0)] })) [0x0010] =
    ([0x81, 0x00, 0x00, 0xFD, 0xA5, 0x8002], [0x80]) := by decide

theorem test_slo_V213 : seen (step (start 0x8000 [0x07, 0x10]
    { State.reset with a := 0x00, mem := [(0x010, 0x80)] })) [0x0010] =
    ([0x00, 0x00, 0x00, 0xFD, 0x27, 0x8002], [0x00]) := by decide

theorem test_rla_V214 : seen (step (start 0x8000 [0x27, 0x10]
    { State.reset with a := 0xFF, p := 0x25, mem := [(0x010, 0x40)] })) [0x0010] =
    ([0x81, 0x00, 0x00, 0xFD, 0xA4, 0x8002], [0x81]) := by decide

theorem test_rla_V215 : seen (step (start 0x8000 [0x27, 0x10]
    { State.reset with a := 0x01, mem := [(0x010, 0x80)] })) [0x0010] =
    ([0x00, 0x00, 0x00, 0xFD, 0x27, 0x8002], [0x00]) := by decide

theorem test_sre_V216 : seen (step (start 0x8000 [0x47, 0x10]
    { State.reset with a := 0x01, mem := [(0x010, 0x03)] })) [0x0010] =
    ([0x00, 0x00, 0x00, 0xFD, 0x27, 0x8002], [0x01]) := by decide

theorem test_sre_V217 : seen (step (start 0x8000 [0x47, 0x10]
    { State.reset with a := 0xF0, mem := [(0x010, 0x1E)] })) [0x0010] =
    ([0xFF, 0x00, 0x00, 0xFD, 0xA4, 0x8002], [0x0F]) := by decide

theorem test_rra_V218 : seen (step (start 0x8000 [0x67, 0x10]
    { State.reset with a := 0x10, mem := [(0x010, 0x03)] })) [0x0010] =
    ([0x12, 0x00, 0x00, 0xFD, 0x24, 0x8002], [0x01]) := by decide

theorem test_rra_V219 : seen (step (start 0x8000 [0x67, 0x10]
    { State.reset with a := 0x7F, p := 0x25, mem := [(0x010, 0x02)] })) [0x0010] =
    ([0x00, 0x00, 0x00, 0xFD, 0x27, 0x8002], [0x81]) := by decide

theorem test_dop_V231 : seen (step (start 0x8000 [0x80, 0xFF]
    { State.reset with p := 0xE7 })) [] =
    ([0x00, 0x00, 0x00, 0xFD, 0xE7, 0x8002], []) := by decide

theorem test_top_V233 : seen (step (start 0x8000 [0x0C, 0x00, 0x40]
    State.reset)) [] =
    ([0x00, 0x00, 0x00, 0xFD, 0x24, 0x8003], []) := by decide

theorem test_nop_star_V237 : seen (step (start 0x8000 [0xFA]
    State.reset)) [] =
    ([0x00, 0x00, 0x00, 0xFD, 0x24, 0x8001], []) := by decide

theorem test_sbc_star_V238 : seen (step (start 0x8000 [0xEB, 0xF0]
    { State.reset with a := 0x50, p := 0x25 })) [] =
    ([0x60, 0x00, 0x00, 0xFD, 0x24, 0x8002], []) := by decide

theorem test_aac_V250 : seen (step (start 0x8000 [0x0B, 0x80]
    { State.reset with a := 0xF0 })) [] =
    ([0x80, 0x00, 0x00, 0xFD, 0xA5, 0x8002], []) := by decide

theorem test_aac_V251 : seen (step (start 0x8000 [0x2B, 0x7F]
    { State.reset with a := 0xF0, p := 0x25 })) [] =
    ([0x70, 0x00, 0x00, 0xFD, 0x24, 0x8002], []) := by decide

theorem test_arr_V254 : seen (step (start 0x8000 [0x6B, 0x40]
    { State.reset with a := 0xFF })) [] =
    ([0x20, 0x00, 0x00, 0xFD, 0x64, 0x8002], []) := by decide

theorem test_arr_V257 : seen (step (start 0x8000 [0x6B, 0xC0]
    { State.reset with a := 0xFF, p := 0x25 })) [] =
    ([0xE0, 0x00, 0x00, 0xFD, 0xA5, 0x8002], []) := by decide

theorem test_asr_V258 : seen (step (start 0x8000 [0x4B, 0x03]
    { State.reset with a := 0xFF })) [] =
    ([0x01, 0x00, 0x00, 0xFD, 0x25, 0x8002], []) := by decide

theorem test_asr_V259 : seen (step (start 0x8000 [0x4B, 0x01]
    { State.reset with a := 0x01 })) [] =
    ([0x00, 0x00, 0x00, 0xFD, 0x27, 0x8002], []) := by decide

theorem test_axs_V263 : seen (step (start 0x8000 [0xCB, 0x05]
    { State.reset with a := 0x0F, x := 0x03 })) [] =
    ([0x0F, 0xFE, 0x00, 0xFD, 0xA4, 0x8002], []) := by decide

theorem test_axs_V264 : seen (step (start 0x8000 [0xCB, 0x03]
    { State.reset with a := 0x0F, x := 0x03, p := 0x64 })) [] =
    ([0x0F, 0x00, 0x00, 0xFD, 0x67, 0x8002], []) := by decide

theorem test_axa_V265 : seen (step (start 0x8000 [0x9F, 0x00, 0x02]
    { State.reset with a := 0xFF, x := 0x0F, y := 0x00 })) [0x0200] =
    ([0xFF, 0x0F, 0x00, 0xFD, 0x24, 0x8003], [0x03]) := by decide

theorem test_axa_V266 : seen (step (start 0x8000 [0x93, 0x20]
    { State.reset with a := 0xFF, x := 0xFF, y := 0x01, mem := [(0x021, 0x06)] })) [0x0601] =
    ([0xFF, 0xFF, 0x01, 0xFD, 0x24, 0x8002], [0x07]) := by decide

theorem test_sxa_V267 : seen (step (start 0x8000 [0x9E, 0x00, 0x06]
    { State.reset with x := 0xFF, y := 0x01 })) [0x0601] =
    ([0x00, 0xFF, 0x01, 0xFD, 0x24, 0x8003], [0x07]) := by decide

theorem test_sya_V268 : seen (step (start 0x8000 [0x9C, 0x00, 0x03]
    { State.reset with y := 0x05, x := 0x00 })) [0x0300] =
    ([0x00, 0x00, 0x05, 0xFD, 0x24, 0x8003], [0x04]) := by decide

theorem test_xas_V269 : seen (step (start 0x8000 [0x9B, 0x00, 0x02]
    { State.reset with a := 0xF3, x := 0x3F, y := 0x00 })) [0x0200] =
    ([0xF3, 0x3F, 0x00, 0x33, 0x24, 0x8003], [0x03]) := by decide

theorem test_lar_V270 : seen (step (start 0x8000 [0xBB, 0x00, 0x02]
    { State.reset with sp := 0xFD, y := 0x00, mem := [(0x200, 0x0F)] })) [] =
    ([0x0D, 0x0D, 0x00, 0x0D, 0x24, 0x8003], []) := by decide

theorem test_kil_V273 : stopped (step (start 0x8000 [0xF2]
    State.reset)) = some (.kilOrUnstableOpcode 0xF2 0x8000) := by decide

theorem test_xaa_V274 : stopped (step (start 0x8000 [0x8B, 0x00]
    State.reset)) = some (.kilOrUnstableOpcode 0x8B 0x8000) := by decide

/-- V261, for every value of `ATX_MAGIC`. -/
theorem test_atx_V261 :
    exec (.atx 0x3C) { State.reset with a := 0x0F } =
      .next { State.reset with
        a := (0x0F ||| Config.atxMagic) &&& 0x3C, x := (0x0F ||| Config.atxMagic) &&& 0x3C
        p := setNZ 0x24 ((0x0F ||| Config.atxMagic) &&& 0x3C), pc := 2 } := by rfl

/-- A machine with another `OPTABLE`. -/
def withTable (s : State) : State := { s with cfg := { defaultConfig with optable := otherTable } }

/-- R94: the machine runs the row its own table gives the byte, and stops on one without an instruction rule. -/
theorem test_step_other_table :
    seen (step (start 0x8000 [0x00, 0x80] (withTable State.reset))) [] = ([0x80, 0x00, 0x00, 0xFD, 0xA4, 0x8002], []) ∧
    stopped (step (start 0x8000 [0x01, 0x80] (withTable State.reset))) = some (.kilOrUnstableOpcode 0x01 0x8000) ∧
    step (start 0x8000 [0xEA] (withTable State.reset)) = .refused (.opcodeRow 0xEA) := ⟨by decide, by decide, rfl⟩

/-- R305: the hook call of the opcode fetch at `0x3FFF` has happened when the operand byte at `0x4000` faults. -/
theorem test_hook_call_before_fault :
    step (withTable { State.reset with pc := 0x3FFF }) =
      .fault (.fatal (.unmappedAddress 0x4000 .read) [.read 7]) := by rfl

/-- U21: with the null hook a step in the PPU window executes `BRK`, after one read of the hook. -/
theorem test_execute_ppu_window :
    ∃ c, step { State.reset with pc := 0x2002 } =
      .next { State.reset with pc := 0x2002, run := .halted, ppuCalls := [.read 2], cycles := c } := ⟨_, rfl⟩

/-- V132: with 32 KiB of PRG the upper half is not a mirror. -/
theorem test_prg_32KiB :
    storedByte { State.reset with cfg := { defaultConfig with prgSize := .kib32 }, mem := [(0x8000, 0x10)] } 0xC000 =
      some 0x00 := by decide

/-- V12: with 16 KiB of PRG it is. -/
theorem test_prg_16KiB : storedByte { State.reset with mem := [(0x8000, 0xAD)] } 0xC000 = some 0xAD := by decide

/-! ### Witnesses: a state and operands that meet the hypotheses of each statement -/

/-- The reset state with `pc` elsewhere. -/
def atPc (pc : Word) : State := { State.reset with pc := pc }

/-- The reset state with another configuration. -/
def withCfg (cfg : Config) : State := { State.reset with cfg := cfg }

/-- The configuration with a hook outside the block. -/
def external : Config := { defaultConfig with ppu := .external }

/-- The configuration under which the unstable instructions are refused. -/
def refusing : Config := { defaultConfig with unstableStores := .refuse }

/-- The configuration whose table lacks `BRK`. -/
def lacking : Config := { defaultConfig with optable := [(0x00, none)] }

/-- A machine at `pc` whose table gives the byte `0x00` another row. -/
def zeroAs (row : OpcodeRow) (pc : Word) : State :=
  { State.reset with pc := pc, cfg := { defaultConfig with optable := [(0x00, some row)] } }

theorem witness_DecodeReadsEncodedInstruction :
    (Instr.lda (.mem (.aby 0xFFFF))).wellFormed = true ∧ (Instr.dop 0x80 (.imm 0xFF)).wellFormed = true := by decide

theorem witness_DecodedBytesEncodeBack : decode [0xBD, 0x34, 0x12, 0xFF] = .ok (.lda (.mem (.abx 0x1234)), [0xFF]) := rfl

theorem witness_StepRunsDecodedInstruction :
    ∃ s : State, s.run = .running ∧
      (∀ (n : Nat) (h : n < [0xA9, 0x05].length),
        storedByte s (s.pc + BitVec.ofNat 16 n) = some ([0xA9, 0x05] : List Byte)[n]) ∧
      decodeWith s.cfg.optable [0xA9, 0x05] = .ok (.lda (.imm 0x05), []) :=
  ⟨start 0xFFFF [0xA9, 0x05] State.reset, by decide, by decide, rfl⟩

/-- The two tables of the statement: no row, a row in a mode its mnemonic has, and one in a mode it does not have. -/
theorem witness_EveryOpcodeByteDecodes :
    optableRow lacking.optable 0x00 = none ∧
    (optableRow otherTable 0x00 = some ⟨.lda, .immediate, 2⟩ ∧ Mode.immediate ∈ modesOf .lda) ∧
    (optableRow otherTable 0xEA = some ⟨.lda, .zeroPageY, 4⟩ ∧ Mode.zeroPageY ∉ modesOf .lda) := by decide

/-- Each clause of the statement: the two ends of the unmapped window; an absent row; `KIL` and `XAA`; a two-byte and a
three-byte row whose operand bytes run into the unmapped window, in a machine whose table gives `0x00` such a row (the PPU
register at `0x3FFF` reads `0x00` from the null hook); `DOP` Immediate with its byte in the unmapped window and elsewhere. -/
theorem witness_FetchFaults :
    ((atPc 0x4000).run = .running ∧ InUnmapped (atPc 0x4000).pc ∧ InUnmapped (atPc 0x7FFF).pc) ∧
    (read8 0 (withCfg lacking) = .ok 0x00 (withCfg lacking) ∧ optableRow lacking.optable 0x00 = none) ∧
    (optableRow [] 0x02 = some ⟨.kil, .implied, 0⟩ ∧ optableRow [] 0x8B = some ⟨.xaa, .immediate, 2⟩ ∧
      ∃ s : State, s.run = .running ∧ read8 s.pc s = .ok 0x8B s) ∧
    (∃ s u : State, s.run = .running ∧ read8 s.pc s = .ok 0x00 u ∧
      optableRow s.cfg.optable 0x00 = some ⟨.lda, .immediate, 2⟩ ∧
      OpcodeRow.hasRule ⟨.lda, .immediate, 2⟩ = true ∧ operandBytesRead ⟨.lda, .immediate, 2⟩ = 1 ∧
      InUnmapped (s.pc + 1)) ∧
    (∃ s u v : State, s.run = .running ∧ read8 s.pc s = .ok 0x00 u ∧
      optableRow s.cfg.optable 0x00 = some ⟨.jmp, .absolute, 3⟩ ∧ OpcodeRow.hasRule ⟨.jmp, .absolute, 3⟩ = true ∧
      operandBytesRead ⟨.jmp, .absolute, 3⟩ = 2 ∧ read8 (s.pc + 1) u = .ok 0x00 v ∧ InUnmapped (s.pc + 2)) ∧
    (∃ s u : State, s.run = .running ∧ read8 s.pc s = .ok 0x00 u ∧
      optableRow s.cfg.optable 0x00 = some ⟨.dop, .immediate, 2⟩ ∧ InUnmapped (s.pc + 1)) ∧
    (∃ s : State, s.run = .running ∧ s.cfg.optable = [] ∧ read8 s.pc s = .ok 0x80 s ∧
      optableRow s.cfg.optable 0x80 = some ⟨.dop, .immediate, 2⟩) :=
  ⟨by decide, ⟨rfl, rfl⟩, ⟨rfl, rfl, start 0x8000 [0x8B] State.reset, rfl, rfl⟩,
    ⟨withTable (atPc 0x3FFF), _, rfl, rfl, rfl, rfl, rfl, by decide⟩,
    ⟨zeroAs ⟨.jmp, .absolute, 3⟩ 0x3FFE, _, _, rfl, rfl, rfl, rfl, rfl, rfl, by decide⟩,
    ⟨zeroAs ⟨.dop, .immediate, 2⟩ 0x3FFF, _, rfl, rfl, rfl, by decide⟩,
    ⟨start 0x1FFF [0x80] State.reset, rfl, rfl, rfl, rfl⟩⟩

theorem witness_UnknownOpcodeNeedsAbsentRow :
    step (withCfg lacking) = .fault (.fatal (.unknownOpcode 0x00 0x0000) []) := rfl

theorem witness_StepStopsOnlyAsSpecified :
    (({ State.reset with run := .halted } : State).run ≠ .running) ∧
    ((atPc 0x4000).run = .running ∧ step (atPc 0x4000) = .fault (.fatal (.unmappedAddress 0x4000 .read) [])) ∧
    (∃ s : State, s.run = .running ∧ step s = .refused (.unstableStores "SXA")) ∧
    (∃ s : State, s.run = .running ∧ step s = .refused (.opcodeRow 0xEA)) :=
  ⟨by decide, ⟨by decide, rfl⟩, ⟨start 0x8000 [0x9E, 0x00, 0x06] (withCfg refusing), by decide, rfl⟩,
    start 0x8000 [0xEA] (withTable State.reset), by decide, rfl⟩

theorem witness_OnlyBrkEndsARun : ∃ t, step State.reset = .next t := ⟨_, rfl⟩

theorem witness_ResetSequenceSetsRegisters :
    (withCfg { defaultConfig with resetPcOverride := some 0xC000 }).cfg.resetPcOverride = some 0xC000 ∧
    State.reset.cfg.resetPcOverride = none := by decide

theorem witness_BootBuildsTheMachine :
    (List.replicate 0x800 (0x00 : Byte)).length = 0x800 ∧
    (List.replicate 0x4000 (0xEA : Byte)).length = 0x4000 ∧ (List.replicate 0x8000 (0xEA : Byte)).length = 0x8000 ∧
    (([] : List Byte).length ≠ 0x4000 ∧ ([] : List Byte).length ≠ 0x8000) ∧
    defaultConfig.resetPcOverride = none ∧
    ({ defaultConfig with resetPcOverride := some 0xC000 } : Config).resetPcOverride = some 0xC000 :=
  ⟨List.length_replicate, List.length_replicate, List.length_replicate, by decide, rfl, rfl⟩

theorem witness_StepKeepsInvariant : Inv State.reset ∧ ∃ t, step State.reset = .next t :=
  ⟨⟨by decide, by decide, by decide⟩, _, rfl⟩

theorem witness_StepKeepsConfigurationAndCartridge :
    (∃ t, step State.reset = .next t) ∧ InPrg 0x8000 ∧ InPrg 0xFFFF := ⟨⟨_, rfl⟩, by decide, by decide⟩

theorem witness_MemoryChangesOnlyWhereStored :
    (∃ t, exec (.sta (.zp 0x10)) State.reset = .next t) ∧
    (∀ k ∈ storedCells (.sta (.zp 0x10)) State.reset, cellOf .kib16 0x0011 ≠ some k) ∧
    (∃ t, exec .nop State.reset = .next t) ∧ storedCells .nop State.reset = [] :=
  ⟨⟨_, rfl⟩, by decide, ⟨_, rfl⟩, rfl⟩

theorem witness_RegistersChangeOnlyByTheirWriters :
    (∃ t, exec (.cmp (.imm 0x01)) State.reset = .next t) ∧
    writesA (.cmp (.imm 0x01)) = false ∧ writesX (.cmp (.imm 0x01)) = false ∧ writesY (.cmp (.imm 0x01)) = false ∧
    writesSP (.cmp (.imm 0x01)) = false := ⟨⟨_, rfl⟩, rfl, rfl, rfl, rfl⟩

theorem witness_FlagsChangeOnlyByTheirWriters :
    (∃ t, exec .txs State.reset = .next t) ∧ writesC .txs = false ∧ writesV .txs = false ∧ writesNZ .txs = false ∧
    writesI .txs = false ∧ writesD .txs = false := ⟨⟨_, rfl⟩, rfl, rfl, rfl, rfl, rfl⟩

theorem witness_BreakBitsOfTheStatus :
    (∃ t, exec .php State.reset = .next t) ∧ writesStatusWhole .php = false ∧
    (∃ t, exec .plp State.reset = .next t) ∧ writesStatusWhole .plp = true := ⟨⟨_, rfl⟩, rfl, ⟨_, rfl⟩, rfl⟩

theorem witness_PcAdvancesByTheSize :
    (∃ t, exec (.lda (.mem (.abs 0xFFFF))) (atPc 0xFFFE) = .next t) ∧ movesPc (.lda (.mem (.abs 0xFFFF))) = false :=
  ⟨⟨_, rfl⟩, rfl⟩

theorem witness_CanonicalMemoriesThatReadAlikeAreEqual :
    Memory.wf [(0x10, 0x01)] ∧ Memory.wf (Memory.set [] 0x10 0x01) ∧
    ∀ k, Memory.get [(0x10, 0x01)] k = (Memory.set [] 0x10 0x01).get k := ⟨by decide, by decide, fun _ => rfl⟩

/-- The two ends of each window (R51), for `BusReadByWindow`, `BusWriteByWindow`, `DataAccessFaults` and `StoresTo`. -/
theorem witness_windows :
    (InRam 0x0000 ∧ InRam 0x1FFF) ∧ (InPpu 0x2000 ∧ InPpu 0x3FFF) ∧ (InUnmapped 0x4000 ∧ InUnmapped 0x7FFF) ∧
    (InPrg 0x8000 ∧ InPrg 0xFFFF) ∧ ¬ InPpu 0x1FFF ∧ ¬ InUnmapped 0x3FFF ∧ ¬ InPrg 0x7FFF := by decide

theorem witness_BusReadByWindow :
    State.reset.cfg.ppu = .null ∧ (withCfg external).cfg.ppu = .external ∧ State.reset.cfg.prgSize = .kib16 ∧
    (withCfg { defaultConfig with prgSize := .kib32 }).cfg.prgSize = .kib32 := by decide

theorem witness_RamMirrorsAlias :
    InRam 0x0000 ∧ InRam 0x1800 ∧ write8 0x0000 0x5A State.reset = .ok () { State.reset with mem := [(0, 0x5A)] } ∧
    (0x0000 &&& 0x07FF : Word) = 0x1800 &&& 0x07FF ∧
    InRam 0x1FFF ∧ (0x0000 &&& 0x07FF : Word) ≠ 0x1FFF &&& 0x07FF ∧ read8 0x1FFF State.reset = .ok 0x00 State.reset :=
  ⟨by decide, by decide, rfl, by decide, by decide, by decide, rfl⟩

theorem witness_WordAccessIsTwoByteAccesses :
    (read8 0xFFFF State.reset = .ok 0x00 State.reset ∧ read8 (0xFFFF + 1) State.reset = .ok 0x00 State.reset) ∧
    (read8 0x4000 State.reset = .stop (.unmappedAddress 0x4000 .read) []) ∧
    (∃ t, read8 0x3FFF State.reset = .ok 0x00 t ∧
      read8 (0x3FFF + 1) t = .stop (.unmappedAddress 0x4000 .read) [.read 7]) ∧
    (∃ t u, write8 0x1FFF (lo 0x1234) State.reset = .ok () t ∧ write8 (0x1FFF + 1) (hi 0x1234) t = .ok () u) ∧
    (write8 0xFFFF (lo 0x1234) State.reset = .stop (.prgRomWrite 0xFFFF) []) ∧
    (∃ t, write8 0x3FFF (lo 0x1234) State.reset = .ok () t ∧
      write8 (0x3FFF + 1) (hi 0x1234) t = .stop (.unmappedAddress 0x4000 .write) [.write 7 0x34]) ∧
    (InRam 0x1FFE ∧ InRam (0x1FFE + 1) ∧ ∃ t, write16 0x1FFE 0x1234 State.reset = .ok () t) :=
  ⟨⟨rfl, rfl⟩, rfl, ⟨_, rfl, rfl⟩, ⟨_, _, rfl, rfl⟩, rfl, ⟨_, rfl, rfl⟩, by decide, by decide, _, rfl⟩

theorem witness_DecimalFlagIsInert :
    Instr.adc (.imm 0x09) ∈
      [Instr.adc (.imm 0x09), .sbc (.imm 0x09), .sbcStar 0x09, .rra (.zp 0x10), .isb (.zp 0x10)] ∧
    (∃ t, exec (.adc (.imm 0x09)) State.reset = .next t) ∧ (∃ t, exec (.sbc (.imm 0x09)) State.reset = .next t) ∧
    (∃ t, exec (.sbcStar 0x09) State.reset = .next t) ∧ (∃ t, exec (.rra (.zp 0x10)) State.reset = .next t) ∧
    (∃ t, exec (.isb (.zp 0x10)) State.reset = .next t) :=
  ⟨by decide, ⟨_, rfl⟩, ⟨_, rfl⟩, ⟨_, rfl⟩, ⟨_, rfl⟩, ⟨_, rfl⟩⟩

/-- `Readable`, the hypothesis of every `ReadsInto`: an immediate, and operands at the two edges of the unmapped window. -/
theorem witness_ReadsInto :
    Readable (.imm 0x00) State.reset ∧ Readable (.mem (.abs 0x3FFF)) State.reset ∧
    Readable (.mem (.abs 0x8000)) State.reset := by
  refine ⟨fun _ h => ?_, fun _ h => ?_, fun _ h => ?_⟩
  · cases h
  · injection h with h; subst h; decide
  · injection h with h; subst h; decide

/-- The hypotheses of `StoresTo` and `ModifiesTo`, at the edges of the RAM and PPU windows, under each unstable mode. -/
theorem witness_StoresTo :
    InRam (operandAddress (.abs 0x1FFF) State.reset) ∧ InPpu (operandAddress (.abs 0x2000) State.reset) ∧
    InPpu (operandAddress (.abs 0x3FFF) State.reset) ∧ State.reset.cfg.unstableStores = .asSpecified ∧
    InRam (operandAddress (.aby 0x0000) State.reset) ∧ InPpu (operandAddress (.abx 0x2000) State.reset) := by decide

theorem witness_JumpGoesToItsTarget : ¬ InUnmapped 0x3FFF ∧ ¬ InUnmapped 0x80FF ∧ InUnmapped 0x40FF := by decide

theorem witness_ReturnComesBackAfterTheCall :
    ∃ t u, exec (.jsr 0x1234) { atPc 0xFFFE with sp := 0x00 } = .next t ∧ exec .rts t = .next u := ⟨_, _, rfl, rfl⟩

theorem witness_BreakHaltsOrTakesTheVector :
    State.reset.cfg.brkMode = .halt ∧ (withCfg vectored).cfg.brkMode = .vectored := by decide

theorem witness_InterruptReturnUndoesBreak :
    (withCfg vectored).cfg.brkMode = .vectored ∧ StatusOk (withCfg vectored).p ∧
    ∃ t u, exec .brk (withCfg vectored) = .next t ∧ exec .rti t = .next u :=
  ⟨by decide, by decide, _, _, rfl, rfl⟩

theorem witness_PullStatusUndoesPushStatus :
    StatusOk 0xEF ∧ ∃ t u, exec .php { State.reset with p := 0xEF } = .next t ∧ exec .plp t = .next u :=
  ⟨by decide, _, _, rfl, rfl⟩

theorem witness_NoOperationForms :
    (Operand.imm 0xFF).mode ∈ [Mode.immediate, .zeroPage, .zeroPageX] ∧
    (Operand.mem (.zpx 0xFF)).mode ∈ [Mode.immediate, .zeroPage, .zeroPageX] ∧
    (Addressing.abs 0x4000).mode ∈ [Mode.absolute, .absoluteX] := by decide

theorem witness_LoadsOfTwoRegisters : State.reset.cfg.unstableStores = .asSpecified ∧
    Readable (.mem (.aby 0x8000)) State.reset := by
  refine ⟨rfl, fun _ h => ?_⟩
  injection h with h; subst h; decide

theorem witness_UnstableInstructionsRefusedWhenConfigured : (withCfg refusing).cfg.unstableStores = .refuse := by decide

theorem witness_DataAccessFaults :
    (isUnstable (.axa (.aby 0x4000)) = true ∧ State.reset.cfg.unstableStores = .asSpecified) ∧
    (isUnstable (.lda (.mem (.abs 0x4000))) = false ∧ (withCfg refusing).cfg.unstableStores = .refuse) ∧
    (readOperand (.lda (.mem (.abs 0x4000))) = some (.mem (.abs 0x4000)) ∧
      InUnmapped (operandAddress (.abs 0x4000) State.reset)) ∧
    (modifyOperand (.inc (.abs 0x7FFF)) = some (.abs 0x7FFF) ∧ InUnmapped (operandAddress (.abs 0x7FFF) State.reset)) ∧
    (storeOperand (.sta (.abs 0x7FFF)) = some (.abs 0x7FFF) ∧ InUnmapped (operandAddress (.abs 0x7FFF) State.reset)) ∧
    (storeOperand (.sta (.abs 0x8000)) = some (.abs 0x8000) ∧ InPrg (operandAddress (.abs 0x8000) State.reset)) ∧
    (modifyOperand (.inc (.abs 0xFFFF)) = some (.abs 0xFFFF) ∧ InPrg (operandAddress (.abs 0xFFFF) State.reset)) := by
  decide

theorem witness_StepReadsInstructionThroughTheBus :
    (∃ s u : State, s.run = .running ∧ read8 s.pc s = .ok 0x00 u ∧
      optableRow s.cfg.optable 0x00 = some ⟨.nop, .implied, 2⟩ ∧ operandBytesRead ⟨.nop, .implied, 2⟩ = 0 ∧
      OpcodeRow.hasRule ⟨.nop, .implied, 2⟩ = true ∧ InPpu s.pc) ∧
    (∃ s u v : State, s.run = .running ∧ read8 s.pc s = .ok 0x00 u ∧
      optableRow s.cfg.optable 0x00 = some ⟨.lda, .immediate, 2⟩ ∧ operandBytesRead ⟨.lda, .immediate, 2⟩ = 1 ∧
      OpcodeRow.hasRule ⟨.lda, .immediate, 2⟩ = true ∧ read8 (s.pc + 1) u = .ok 0x00 v ∧ InPpu s.pc) ∧
    (∃ s u v w : State, s.run = .running ∧ read8 s.pc s = .ok 0x00 u ∧
      optableRow s.cfg.optable 0x00 = some ⟨.jmp, .absolute, 3⟩ ∧ operandBytesRead ⟨.jmp, .absolute, 3⟩ = 2 ∧
      OpcodeRow.hasRule ⟨.jmp, .absolute, 3⟩ = true ∧ read8 (s.pc + 1) u = .ok 0x00 v ∧
      read8 (s.pc + 2) v = .ok 0x00 w ∧ InPpu s.pc) ∧
    (InPpu (atPc 0x2000).pc ∧ InPpu (atPc 0x3FFF).pc ∧ State.reset.cfg.ppu = .null ∧
      optableRow State.reset.cfg.optable 0x00 = some ⟨.brk, .implied, 7⟩ ∧ State.reset.cfg.brkMode = .halt ∧
      (withCfg vectored).cfg.brkMode = .vectored) :=
  ⟨⟨zeroAs ⟨.nop, .implied, 2⟩ 0x2000, _, rfl, rfl, rfl, rfl, rfl, by decide⟩,
    ⟨zeroAs ⟨.lda, .immediate, 2⟩ 0x2000, _, _, rfl, rfl, rfl, rfl, rfl, rfl, by decide⟩,
    ⟨zeroAs ⟨.jmp, .absolute, 3⟩ 0x2000, _, _, _, rfl, rfl, rfl, rfl, rfl, rfl, rfl, by decide⟩, by decide⟩

end Sys2Proof.Tests
end

section
/-! PROOFS. The statements of 00_scope.md. -/

namespace Sys2Proof.Machine

/-- Setting or clearing one flag keeps every other bit (R35). -/
theorem getLsbD_putFlag_of_ne {mask : Byte} {k : Nat} (hm : mask = BitVec.twoPow 8 k) (p : Byte) (b : Bool) {i : Nat}
    (h : i ≠ k) : (putFlag mask p b).getLsbD i = p.getLsbD i := by
  by_cases hi : i < 8
  · simp [hm, getLsbD_putFlag _ p b hi, BitVec.getLsbD_twoPow, h.symm]
  · rw [BitVec.getLsbD_of_ge _ _ (by omega), BitVec.getLsbD_of_ge _ _ (by omega)]

theorem getLsbD_putZ_of_ne (p : Byte) (b : Bool) {i : Nat} (h : i ≠ 1) : (putZ p b).getLsbD i = p.getLsbD i :=
  getLsbD_putFlag_of_ne (by decide) p b h

theorem getLsbD_putN_of_ne (p : Byte) (b : Bool) {i : Nat} (h : i ≠ 7) : (putN p b).getLsbD i = p.getLsbD i :=
  getLsbD_putFlag_of_ne (by decide) p b h

theorem getLsbD_setNZ_of_ne (p v : Byte) {i : Nat} (h1 : i ≠ 1) (h7 : i ≠ 7) :
    (setNZ p v).getLsbD i = p.getLsbD i :=
  calc (setNZ p v).getLsbD i
    _ = (putZ p (v == 0)).getLsbD i := getLsbD_putN_of_ne _ _ h7
    _ = p.getLsbD i := getLsbD_putZ_of_ne _ _ h1

/-- Settles O30: `Z` and `N` are the flags `setNZ` writes, and neither write touches another bit. -/
theorem setNZFlags : Obligations.SetNZFlags := by
  intro p v
  have hZ : (setNZ p v).getLsbD 1 = (v == 0) := flagZ_setNZ p v
  have hN : (setNZ p v).getLsbD 7 = v.getLsbD 7 := flagN_setNZ p v
  exact ⟨by rw [hZ, beq_iff_eq], hN, fun _ h1 h7 => getLsbD_setNZ_of_ne p v h1 h7⟩

end Sys2Proof.Machine
end

section
/-! PROOFS. What an instruction that answers does to the state, said once for each access class
(40_step_and_addressing.md R136) and for the few instructions outside the classes: the form of the next state, and which
cells of memory were written on the way. -/

namespace Sys2Proof.Machine

/-! ### Memory after some writes -/

/-- `n` is the memory `m` after any number of writes, each to a RAM cell among `cells`. -/
inductive WrittenTo (cells : List Nat) (m : Memory) : Memory → Prop
  | refl : WrittenTo cells m m
  | set {n : Memory} {k : Nat} (v : Byte) : WrittenTo cells m n → k ∈ cells → k < 0x800 → WrittenTo cells m (n.set k v)

/-- Writes keep the canonical form. -/
theorem WrittenTo.wf {cells : List Nat} {m n : Memory} (h : WrittenTo cells m n) (hm : m.wf) : n.wf := by
  induction h with
  | refl => exact hm
  | set v _ _ _ ih => exact Memory.set_wf _ v ih

/-- Writes to RAM cells list no cell that does not exist. -/
theorem WrittenTo.placed {cells : List Nat} {m n : Memory} {sz : PrgSize} (h : WrittenTo cells m n)
    (hm : Placed sz m) : Placed sz n := by
  induction h with
  | refl => exact hm
  | set v _ _ hk ih =>
    intro c hc
    rcases Memory.mem_set hc with rfl | hc
    · exact .inl hk
    · exact ih c hc

/-- A cell that is not written reads as before. -/
theorem WrittenTo.get_of_not_mem {cells : List Nat} {m n : Memory} (h : WrittenTo cells m n) {k : Nat}
    (hk : k ∉ cells) : n.get k = m.get k := by
  induction h with
  | refl => rfl
  | @set _ j v _ hj _ ih =>
    have hne : k ≠ j := fun e => hk (e ▸ hj)
    rw [Memory.get_set_ne _ v hne, ih]

/-- A cell above RAM reads as before. -/
theorem WrittenTo.get_of_le {cells : List Nat} {m n : Memory} (h : WrittenTo cells m n) {k : Nat}
    (hk : 0x800 ≤ k) : n.get k = m.get k := by
  induction h with
  | refl => rfl
  | set v _ _ hj ih => rw [Memory.get_set_ne _ v (by omega), ih]

/-- A push writes its stack slot. -/
theorem WrittenTo.push {cells : List Nat} {m n : Memory} (h : WrittenTo cells m n) {sp : Byte} (v : Byte)
    (hk : stackCell sp ∈ cells) : WrittenTo cells m (n.set (stackCell sp) v) :=
  h.set v hk ((stackCell_bound sp).2.trans (by decide))

/-! ### The access classes -/

/-- A bus write that answers writes at most the cell behind its address, and records at most a hook call. -/
theorem write8_effect {a : Word} {v : Byte} {s u : State} (h : write8 a v s = .ok () u) :
    ∃ mem calls, WrittenTo (cellOf s.cfg.prgSize a).toList s.mem mem ∧ u = { s with mem := mem, ppuCalls := calls } := by
  rcases write8_ok h with ⟨k, hk, hc, rfl⟩ | ⟨-, e⟩
  · exact ⟨_, s.ppuCalls, WrittenTo.refl.set v (by simp [hc]) hk, rfl⟩
  · exact ⟨s.mem, _, .refl, e⟩

theorem readClass_effect {m : Operand} {use : Byte → State → State} {s t : State} (h : readClass m use s = .next t) :
    ∃ v calls, t = advance m.mode (use v { s with ppuCalls := calls }) := by
  obtain ⟨v, u, hl, rfl⟩ := readClass_next.1 h
  exact ⟨v, u.ppuCalls, by rw [← loadOperand_ok hl]⟩

theorem storeClass_effect {ad : Addressing} {v : Byte} {s t : State} (h : storeClass ad v s = .next t) :
    ∃ mem calls, WrittenTo (cellOf s.cfg.prgSize (operandAddress ad s)).toList s.mem mem ∧
      t = advance ad.mode { s with mem := mem, ppuCalls := calls } := by
  obtain ⟨u, hw, rfl⟩ := storeClass_next.1 h
  obtain ⟨mem, calls, hm, rfl⟩ := write8_effect hw
  exact ⟨mem, calls, hm, rfl⟩

theorem modifyClass_effect {ad : Addressing} {g : Byte → Byte} {use : Byte → State → State} {s t : State}
    (h : modifyClass ad g use s = .next t) :
    ∃ v mem calls, WrittenTo (cellOf s.cfg.prgSize (operandAddress ad s)).toList s.mem mem ∧
      t = advance ad.mode (use v { s with mem := mem, ppuCalls := calls }) := by
  obtain ⟨v, u, w, hr, hw, rfl⟩ := modifyClass_next.1 h
  obtain ⟨mem, calls, hm, rfl⟩ := write8_effect hw
  rw [read8_ok hr] at hm ⊢
  exact ⟨v, mem, calls, hm, rfl⟩

/-- An unstable instruction that answers has its meaning. -/
theorem unstableClass_next {name : String} {r : Result} {s t : State} (h : unstableClass name r s = .next t) :
    r = .next t := by
  cases hu : s.cfg.unstableStores with
  | asSpecified => rwa [unstableClass_asSpecified hu] at h
  | refuse => rw [unstableClass_refuse hu] at h; cases h

/-! ### Branches, jumps and `BRK` -/

theorem branchClass_effect {cond : Bool} {off : Byte} {s t : State} (h : branchClass cond off s = .next t) :
    ∃ w, t = jumpTo w s := by
  rw [branchClass_next] at h
  injection h with h
  exact ⟨_, h.symm⟩

theorem execJmp_effect {j : JumpTarget} {s t : State} (h : execJmp j s = .next t) :
    ∃ w calls, t = jumpTo w { s with ppuCalls := calls } := by
  obtain ⟨w, u, hj, rfl⟩ := Access.conclude_next.1 h
  exact ⟨w, u.ppuCalls, by rw [← jumpTarget_ok hj]⟩

theorem execBrk_effect {s t : State} (h : execBrk s = .next t) :
    s.cfg.brkMode = .halt ∧ t = haltRun s ∨ s.cfg.brkMode = .vectored ∧ t = takeBreak s := by
  unfold execBrk at h
  cases hb : s.cfg.brkMode <;> rw [hb] at h <;> injection h with h
  · exact .inl ⟨rfl, h.symm⟩
  · exact .inr ⟨rfl, h.symm⟩

end Sys2Proof.Machine
end

section
/-! PROOFS. The frame of an instruction that answers: the memory, the registers and configuration, and the status
register, each by one case split over the instructions, grouped by access class and by the flags they write. -/

namespace Sys2Proof.Machine

/-! ### Memory -/

/-- The three stack slots a vectored `BRK` stores to (R222). -/
theorem storedCells_brk_vectored {s : State} (h : s.cfg.brkMode = .vectored) :
    storedCells .brk s = [stackCell s.sp, stackCell (s.sp - 1), stackCell (s.sp - 1 - 1)] := by
  unfold storedCells
  simp only [h, sub_sub]
  rfl

/-- An instruction that answers writes no cell but RAM cells among its `storedCells`. -/
theorem exec_writtenTo {i : Instr} {s t : State} (h : exec i s = .next t) : WrittenTo (storedCells i s) s.mem t.mem := by
  cases i with
  | lda m | ldx m | ldy m | adc m | sbc m | and m | ora m | eor m | cmp m | cpx m | cpy m | bit m | lax m =>
    obtain ⟨v, calls, rfl⟩ := readClass_effect h
    exact .refl
  | lar w =>
    obtain ⟨v, calls, rfl⟩ := readClass_effect (unstableClass_next h)
    exact .refl
  | sta m | stx m | sty m | sax m =>
    obtain ⟨mem, calls, hm, rfl⟩ := storeClass_effect h
    exact hm
  | axa m | sxa w | sya w | xas w =>
    obtain ⟨mem, calls, hm, rfl⟩ := storeClass_effect (unstableClass_next h)
    exact hm
  | inc m | dec m | dcp m | isb m | slo m | rla m | sre m | rra m =>
    obtain ⟨v, mem, calls, hm, rfl⟩ := modifyClass_effect h
    exact hm
  | asl m | lsr m | rol m | ror m =>
    cases m with
    | imm b => cases h; exact .refl
    | acc => cases h; exact .refl
    | mem ad =>
      obtain ⟨v, mem, calls, hm, rfl⟩ := modifyClass_effect h
      exact hm
  | tax | tay | tsx | txa | tya | txs | inx | iny | dex | dey | clc | sec | cld | sed | cli | sei | clv | nop | nopStar op
  | pla | plp | rts | rti | dop op m | top op m | sbcStar b | aac op b | arr b | asr b | atx b | axs b =>
    cases h
    exact .refl
  | pha | php =>
    cases h
    exact WrittenTo.refl.push _ List.mem_cons_self
  | jsr w =>
    cases h
    have h2 : stackCell (s.sp - 1) ∈ storedCells (.jsr w) s := List.mem_cons_of_mem _ List.mem_cons_self
    exact (WrittenTo.refl.push _ List.mem_cons_self).push _ h2
  | brk =>
    rcases execBrk_effect h with ⟨-, rfl⟩ | ⟨hb, rfl⟩
    · exact .refl
    · rw [storedCells_brk_vectored hb]
      exact ((WrittenTo.refl.push _ (by simp)).push _ (by simp)).push _ (by simp)
  | bcc off | bcs off | beq off | bne off | bmi off | bpl off | bvc off | bvs off =>
    obtain ⟨w, rfl⟩ := branchClass_effect h
    exact .refl
  | jmp j =>
    obtain ⟨w, calls, rfl⟩ := execJmp_effect h
    exact .refl
  | kil op | xaa bytes => cases h

/-! ### Registers and configuration -/

/-- The configuration is as before, and so is each of `A`, `X`, `Y` and `SP` that `i` does not write. -/
structure RegisterFrame (i : Instr) (s t : State) : Prop where
  cfg : t.cfg = s.cfg
  a   : writesA i = false → t.a = s.a
  x   : writesX i = false → t.x = s.x
  y   : writesY i = false → t.y = s.y
  sp  : writesSP i = false → t.sp = s.sp

/-- The frame where none of the four registers changes. -/
theorem RegisterFrame.unchanged {i : Instr} {s t : State} (hc : t.cfg = s.cfg) (ha : t.a = s.a) (hx : t.x = s.x)
    (hy : t.y = s.y) (hsp : t.sp = s.sp) : RegisterFrame i s t :=
  ⟨hc, fun _ => ha, fun _ => hx, fun _ => hy, fun _ => hsp⟩

/-- The frame where only `A` changes. -/
theorem RegisterFrame.onlyA {i : Instr} {s t : State} (hw : writesA i = true) (hc : t.cfg = s.cfg) (hx : t.x = s.x)
    (hy : t.y = s.y) (hsp : t.sp = s.sp) : RegisterFrame i s t :=
  ⟨hc, by simp [hw], fun _ => hx, fun _ => hy, fun _ => hsp⟩

/-- The frame where only `X` changes. -/
theorem RegisterFrame.onlyX {i : Instr} {s t : State} (hw : writesX i = true) (hc : t.cfg = s.cfg) (ha : t.a = s.a)
    (hy : t.y = s.y) (hsp : t.sp = s.sp) : RegisterFrame i s t :=
  ⟨hc, fun _ => ha, by simp [hw], fun _ => hy, fun _ => hsp⟩

/-- The frame where only `Y` changes. -/
theorem RegisterFrame.onlyY {i : Instr} {s t : State} (hw : writesY i = true) (hc : t.cfg = s.cfg) (ha : t.a = s.a)
    (hx : t.x = s.x) (hsp : t.sp = s.sp) : RegisterFrame i s t :=
  ⟨hc, fun _ => ha, fun _ => hx, by simp [hw], fun _ => hsp⟩

/-- The frame where only `SP` changes. -/
theorem RegisterFrame.onlySP {i : Instr} {s t : State} (hw : writesSP i = true) (hc : t.cfg = s.cfg) (ha : t.a = s.a)
    (hx : t.x = s.x) (hy : t.y = s.y) : RegisterFrame i s t :=
  ⟨hc, fun _ => ha, fun _ => hx, fun _ => hy, by simp [hw]⟩

/-- An instruction that answers keeps the configuration and the registers it does not write (R21 to R24, R44). -/
theorem exec_registerFrame {i : Instr} {s t : State} (h : exec i s = .next t) : RegisterFrame i s t := by
  cases i with
  | lda m | adc m | sbc m | and m | ora m | eor m =>
    obtain ⟨v, calls, rfl⟩ := readClass_effect h
    exact .onlyA rfl rfl rfl rfl rfl
  | ldx m =>
    obtain ⟨v, calls, rfl⟩ := readClass_effect h
    exact .onlyX rfl rfl rfl rfl rfl
  | ldy m =>
    obtain ⟨v, calls, rfl⟩ := readClass_effect h
    exact .onlyY rfl rfl rfl rfl rfl
  | lax m =>
    obtain ⟨v, calls, rfl⟩ := readClass_effect h
    exact ⟨rfl, nofun, nofun, fun _ => rfl, fun _ => rfl⟩
  | lar w =>
    obtain ⟨v, calls, rfl⟩ := readClass_effect (unstableClass_next h)
    exact ⟨rfl, nofun, nofun, fun _ => rfl, nofun⟩
  | cmp m | cpx m | cpy m | bit m =>
    obtain ⟨v, calls, rfl⟩ := readClass_effect h
    exact .unchanged rfl rfl rfl rfl rfl
  | sta m | stx m | sty m | sax m =>
    obtain ⟨mem, calls, -, rfl⟩ := storeClass_effect h
    exact .unchanged rfl rfl rfl rfl rfl
  | axa m | sxa w | sya w =>
    obtain ⟨mem, calls, -, rfl⟩ := storeClass_effect (unstableClass_next h)
    exact .unchanged rfl rfl rfl rfl rfl
  | xas w =>
    obtain ⟨mem, calls, -, rfl⟩ := storeClass_effect (unstableClass_next h)
    exact .onlySP rfl rfl rfl rfl rfl
  | inc m | dec m | dcp m =>
    obtain ⟨v, mem, calls, -, rfl⟩ := modifyClass_effect h
    exact .unchanged rfl rfl rfl rfl rfl
  | isb m | slo m | rla m | sre m | rra m =>
    obtain ⟨v, mem, calls, -, rfl⟩ := modifyClass_effect h
    exact .onlyA rfl rfl rfl rfl rfl
  | asl m | lsr m | rol m | ror m =>
    cases m with
    | imm b => cases h; exact .unchanged rfl rfl rfl rfl rfl
    | acc => cases h; exact .onlyA rfl rfl rfl rfl rfl
    | mem ad =>
      obtain ⟨v, mem, calls, -, rfl⟩ := modifyClass_effect h
      exact .unchanged rfl rfl rfl rfl rfl
  | txa | tya | sbcStar b | aac op b | arr b | asr b =>
    cases h
    exact .onlyA rfl rfl rfl rfl rfl
  | tax | tsx | inx | dex | axs b =>
    cases h
    exact .onlyX rfl rfl rfl rfl rfl
  | tay | iny | dey =>
    cases h
    exact .onlyY rfl rfl rfl rfl rfl
  | txs | pha | php | plp | jsr w | rts | rti =>
    cases h
    exact .onlySP rfl rfl rfl rfl rfl
  | atx b =>
    cases h
    exact ⟨rfl, nofun, nofun, fun _ => rfl, fun _ => rfl⟩
  | pla =>
    cases h
    exact ⟨rfl, nofun, fun _ => rfl, fun _ => rfl, nofun⟩
  | clc | sec | cld | sed | cli | sei | clv | nop | nopStar op | dop op m | top op m =>
    cases h
    exact .unchanged rfl rfl rfl rfl rfl
  | brk =>
    rcases execBrk_effect h with ⟨-, rfl⟩ | ⟨-, rfl⟩
    · exact .unchanged rfl rfl rfl rfl rfl
    · exact .onlySP rfl rfl rfl rfl rfl
  | bcc off | bcs off | beq off | bne off | bmi off | bpl off | bvc off | bvs off =>
    obtain ⟨w, rfl⟩ := branchClass_effect h
    exact .unchanged rfl rfl rfl rfl rfl
  | jmp j =>
    obtain ⟨w, calls, rfl⟩ := execJmp_effect h
    exact .unchanged rfl rfl rfl rfl rfl
  | kil op | xaa bytes => cases h

/-! ### The status register -/

/-- What `i` may do to a status `p` to leave `q`: each of the six flags is as before unless `i` writes it; bits 5 and 4
are as before unless `i` puts a whole byte into `P`, which forces them. -/
structure StatusFrame (i : Instr) (p q : Byte) : Prop where
  c      : writesC i = false → flagC q = flagC p
  v      : writesV i = false → flagV q = flagV p
  nz     : writesNZ i = false → flagZ q = flagZ p ∧ flagN q = flagN p
  int    : writesI i = false → flagI q = flagI p
  d      : writesD i = false → flagD q = flagD p
  kept   : writesStatusWhole i = false → flag5 q = flag5 p ∧ flagB q = flagB p
  forced : writesStatusWhole i = true → flag5 q = true ∧ flagB q = false

namespace StatusFrame

variable {i : Instr} {p : Byte}

/-- A pulled status may change every flag, and its bits 5 and 4 are forced (R221, R226). -/
theorem pulledStatus {v : Byte} (hw : writesStatusWhole i = true) (c : writesC i = true) (vf : writesV i = true)
    (nz : writesNZ i = true) (int : writesI i = true) (d : writesD i = true) :
    StatusFrame i p (pulledStatus v) := by
  constructor <;> simp [hw, c, vf, nz, int, d]

variable (hw : writesStatusWhole i = false)
include hw

theorem unchanged : StatusFrame i p p := by
  constructor <;> simp [hw]

theorem setNZ {r : Byte} (nz : writesNZ i = true) : StatusFrame i p (setNZ p r) := by
  constructor <;> simp [hw, nz]

theorem addStatus {a m : Byte} {cin : Bool} (c : writesC i = true) (v : writesV i = true) (nz : writesNZ i = true) :
    StatusFrame i p (addStatus p a m cin) := by
  constructor <;> simp [hw, c, v, nz]

theorem compareStatus {r m : Byte} (c : writesC i = true) (nz : writesNZ i = true) :
    StatusFrame i p (compareStatus p r m) := by
  constructor <;> simp [hw, c, nz]

theorem bitStatus {a m : Byte} (v : writesV i = true) (nz : writesNZ i = true) : StatusFrame i p (bitStatus p a m) := by
  constructor <;> simp [hw, v, nz]

theorem shiftStatus {out : Bool} {r : Byte} (c : writesC i = true) (nz : writesNZ i = true) :
    StatusFrame i p (shiftStatus p out r) := by
  constructor <;> simp [hw, c, nz]

theorem arrStatus {r : Byte} (c : writesC i = true) (v : writesV i = true) (nz : writesNZ i = true) :
    StatusFrame i p (arrStatus p r) := by
  constructor <;> simp [hw, c, v, nz]

theorem putC_setNZ {r : Byte} {b : Bool} (c : writesC i = true) (nz : writesNZ i = true) :
    StatusFrame i p (putC (Machine.setNZ p r) b) := by
  constructor <;> simp [hw, c, nz]

theorem putC {b : Bool} (c : writesC i = true) : StatusFrame i p (putC p b) := by
  constructor <;> simp [hw, c]

theorem putV {b : Bool} (v : writesV i = true) : StatusFrame i p (putV p b) := by
  constructor <;> simp [hw, v]

theorem putI {b : Bool} (int : writesI i = true) : StatusFrame i p (putI p b) := by
  constructor <;> simp [hw, int]

theorem putD {b : Bool} (d : writesD i = true) : StatusFrame i p (putD p b) := by
  constructor <;> simp [hw, d]

end StatusFrame

/-- An instruction that answers writes its own flags only (R27 to R34). -/
theorem exec_statusFrame {i : Instr} {s t : State} (h : exec i s = .next t) : StatusFrame i s.p t.p := by
  cases i with
  | lda m | ldx m | ldy m | and m | ora m | eor m | lax m =>
    obtain ⟨v, calls, rfl⟩ := readClass_effect h
    exact .setNZ rfl rfl
  | lar w =>
    obtain ⟨v, calls, rfl⟩ := readClass_effect (unstableClass_next h)
    exact .setNZ rfl rfl
  | adc m | sbc m =>
    obtain ⟨v, calls, rfl⟩ := readClass_effect h
    exact .addStatus rfl rfl rfl rfl
  | cmp m | cpx m | cpy m =>
    obtain ⟨v, calls, rfl⟩ := readClass_effect h
    exact .compareStatus rfl rfl rfl
  | bit m =>
    obtain ⟨v, calls, rfl⟩ := readClass_effect h
    exact .bitStatus rfl rfl rfl
  | sta m | stx m | sty m | sax m =>
    obtain ⟨mem, calls, -, rfl⟩ := storeClass_effect h
    exact .unchanged rfl
  | axa m | sxa w | sya w | xas w =>
    obtain ⟨mem, calls, -, rfl⟩ := storeClass_effect (unstableClass_next h)
    exact .unchanged rfl
  | inc m | dec m =>
    obtain ⟨v, mem, calls, -, rfl⟩ := modifyClass_effect h
    exact .setNZ rfl rfl
  | dcp m =>
    obtain ⟨v, mem, calls, -, rfl⟩ := modifyClass_effect h
    exact .compareStatus rfl rfl rfl
  | isb m | rra m =>
    obtain ⟨v, mem, calls, -, rfl⟩ := modifyClass_effect h
    exact .addStatus rfl rfl rfl rfl
  | slo m | rla m | sre m =>
    obtain ⟨v, mem, calls, -, rfl⟩ := modifyClass_effect h
    exact .shiftStatus rfl rfl rfl
  | asl m | lsr m | rol m | ror m =>
    cases m with
    | imm b => cases h; exact .shiftStatus rfl rfl rfl
    | acc => cases h; exact .shiftStatus rfl rfl rfl
    | mem ad =>
      obtain ⟨v, mem, calls, -, rfl⟩ := modifyClass_effect h
      exact .shiftStatus rfl rfl rfl
  | tax | tay | tsx | txa | tya | inx | iny | dex | dey | pla | atx b =>
    cases h
    exact .setNZ rfl rfl
  | sbcStar b =>
    cases h
    exact .addStatus rfl rfl rfl rfl
  | aac op b =>
    cases h
    exact .putC_setNZ rfl rfl rfl
  | arr b =>
    cases h
    exact .arrStatus rfl rfl rfl rfl
  | asr b =>
    cases h
    exact .shiftStatus rfl rfl rfl
  | axs b =>
    cases h
    exact .compareStatus rfl rfl rfl
  | clc => cases h; exact .putC (b := false) rfl rfl
  | sec => cases h; exact .putC (b := true) rfl rfl
  | cld => cases h; exact .putD (b := false) rfl rfl
  | sed => cases h; exact .putD (b := true) rfl rfl
  | cli => cases h; exact .putI (b := false) rfl rfl
  | sei => cases h; exact .putI (b := true) rfl rfl
  | clv => cases h; exact .putV (b := false) rfl rfl
  | plp | rti =>
    cases h
    exact .pulledStatus rfl rfl rfl rfl rfl rfl
  | txs | pha | php | jsr w | rts | nop | nopStar op | dop op m | top op m =>
    cases h
    exact .unchanged rfl
  | brk =>
    rcases execBrk_effect h with ⟨-, rfl⟩ | ⟨-, rfl⟩
    · exact .unchanged rfl
    · exact .putI (b := true) rfl rfl
  | bcc off | bcs off | beq off | bne off | bmi off | bpl off | bvc off | bvs off =>
    obtain ⟨w, rfl⟩ := branchClass_effect h
    exact .unchanged rfl
  | jmp j =>
    obtain ⟨w, calls, rfl⟩ := execJmp_effect h
    exact .unchanged rfl
  | kil op | xaa bytes => cases h

end Sys2Proof.Machine
end

section
/-! PROOFS. How an instruction and a step stop (60_exceptions.md R300): the outcomes of each access class that are no
next state, and the rows a fetch finds without an instruction rule. -/

namespace Sys2Proof.Machine

/-- An outcome of a machine with configuration `cfg` that faults only with a fatal condition, and is refused only as an
unstable instruction of a machine configured without them (R300, D15). -/
structure StopsAsSpecified (cfg : Config) (r : Result) : Prop where
  fault   : ∀ f, r = .fault f → ∃ c calls, f = .fatal c calls
  refused : ∀ x, r = .refused x → cfg.unstableStores = .refuse ∧ ∃ name, x = .unstableStores name

theorem StopsAsSpecified.next {cfg : Config} {t : State} : StopsAsSpecified cfg (.next t) := ⟨nofun, nofun⟩

theorem StopsAsSpecified.fatal {cfg : Config} {c : FatalCondition} {calls : List PpuCall} :
    StopsAsSpecified cfg (.fault (.fatal c calls)) :=
  ⟨fun _ h => by cases h; exact ⟨_, _, rfl⟩, nofun⟩

/-- Bus accesses stop with the fatal condition they raise, and an instruction that ends with them adds no other stop. -/
theorem StopsAsSpecified.conclude {cfg : Config} {α : Type} {r : Access α} {f : α → State → State} :
    StopsAsSpecified cfg (r.conclude f) := by
  cases r with
  | ok v s => exact .next
  | stop c calls => exact .fatal

/-- An unstable instruction stops as its meaning does, or is refused under the configuration that gives it none. -/
theorem StopsAsSpecified.unstableClass {s : State} {name : String} {r : Result} (h : StopsAsSpecified s.cfg r) :
    StopsAsSpecified s.cfg (unstableClass name r s) := by
  cases hu : s.cfg.unstableStores with
  | asSpecified => rwa [unstableClass_asSpecified hu]
  | refuse =>
    rw [unstableClass_refuse hu]
    exact ⟨nofun, fun x h => by cases h; exact ⟨hu, _, rfl⟩⟩

theorem StopsAsSpecified.brk {cfg : Config} {s : State} : StopsAsSpecified cfg (execBrk s) := by
  unfold execBrk
  split <;> exact .next

/-- Every instruction stops only as specified. -/
theorem exec_stopsAsSpecified (i : Instr) (s : State) : StopsAsSpecified s.cfg (exec i s) := by
  cases i with
  | lda m | ldx m | ldy m | adc m | sbc m | and m | ora m | eor m | cmp m | cpx m | cpy m | bit m | lax m
  | sta m | stx m | sty m | sax m | inc m | dec m | dcp m | isb m | slo m | rla m | sre m | rra m | jmp j =>
    exact .conclude
  | axa m | sxa w | sya w | xas w | lar w => exact .unstableClass .conclude
  | asl m | lsr m | rol m | ror m =>
    cases m with
    | imm b | acc => exact .next
    | mem ad => exact .conclude
  | brk => exact .brk
  | kil op | xaa bytes => exact .fatal
  | tax | tay | tsx | txa | tya | txs | inx | iny | dex | dey | bcc off | bcs off | beq off | bne off | bmi off | bpl off
  | bvc off | bvs off | jsr w | rts | rti | pha | pla | php | plp | clc | sec | cld | sed | cli | sei | clv | nop
  | dop op m | top op m | nopStar op | sbcStar b | aac op b | arr b | asr b | atx b | axs b =>
    exact .next

/-- Every row of the default table has an instruction rule (R94, R97). -/
theorem optableRow_default_hasRule {op : Byte} {row : OpcodeRow} (h : optableRow [] op = some row) :
    row.hasRule = true := by
  have all : ∀ op : Byte, (optableRow [] op).all OpcodeRow.hasRule = true := by decide
  simpa [h] using all op

/-- A fetch that finds no instruction rule has read a byte whose row has none. -/
theorem fetch_noRule {s u : State} {op : Byte} (h : fetch s = .ok (.noRule op) u) :
    ∃ row, read8 s.pc s = .ok op u ∧ optableRow s.cfg.optable op = some row ∧ row.hasRule = false := by
  obtain ⟨op', v, hr, -⟩ := Access.bind_ok.1 h
  rw [fetch_of_read8 hr] at h
  cases hrow : optableRow s.cfg.optable op' with
  | none => simp [hrow] at h
  | some row =>
    cases hs : rowShape op' row with
    | none =>
      simp only [hrow, hs] at h
      cases h
      exact ⟨row, hr, hrow, by rw [← rowShape_isSome op, hs]; rfl⟩
    | some shape =>
      simp only [hrow, hs] at h
      obtain ⟨i, w, -, e⟩ := Access.bind_ok.1 h
      cases e

/-- A step of a machine that is not running stops as `notRunning`. -/
theorem step_of_not_running {s : State} (h : s.run ≠ .running) : step s = .fault (.notRunning s.run) := by
  unfold step
  cases hr : s.run with
  | running => exact absurd hr h
  | halted => rfl
  | faulted c => rfl

theorem accumulate_fault {n : Nat} {r : Result} {f : Fault} : accumulate n r = .fault f ↔ r = .fault f := by
  cases r <;> simp [accumulate]

theorem accumulate_refused {n : Nat} {r : Result} {x : Refusal} : accumulate n r = .refused x ↔ r = .refused x := by
  cases r <;> simp [accumulate]

/-- A fault of a running machine's step is a fatal condition: of the fetch, or of the instruction. -/
theorem step_fault_of_running {s : State} {f : Fault} (hr : s.run = .running) (h : step s = .fault f) :
    ∃ c calls, f = .fatal c calls := by
  rw [step_of_running hr] at h
  cases hf : fetch s with
  | stop c calls =>
    rw [hf] at h
    cases h
    exact ⟨c, calls, rfl⟩
  | ok fetched u =>
    rw [hf] at h
    cases fetched with
    | instr i n => exact (exec_stopsAsSpecified i u).fault f (accumulate_fault.1 h)
    | noRule op => cases h

/-- A refusal of a running machine's step is that of an unstable instruction, or of a row without a rule. -/
theorem step_refused_of_running {s : State} {r : Refusal} (hr : s.run = .running) (h : step s = .refused r) :
    (s.cfg.unstableStores = .refuse ∧ ∃ name, r = .unstableStores name) ∨
      ∃ op u, fetch s = .ok (.noRule op) u ∧ r = .opcodeRow op := by
  rw [step_of_running hr] at h
  cases hf : fetch s with
  | stop c calls => rw [hf] at h; cases h
  | ok fetched u =>
    rw [hf] at h
    cases fetched with
    | instr i n =>
      have hc : u.cfg = s.cfg := by rw [fetch_ok hf]
      exact .inl (hc ▸ (exec_stopsAsSpecified i u).refused r (accumulate_refused.1 h))
    | noRule op => cases h; exact .inr ⟨op, u, rfl, rfl⟩

end Sys2Proof.Machine
end

section
/-! PROOFS. The statements of 10_state.md. -/

namespace Sys2Proof.Machine

/-! ### One step -/

/-- A step that answers is the execution of one instruction but for the hook calls of the fetch and the cycles: it keeps
the configuration, writes RAM cells only, and does to the status what that instruction may do. -/
theorem step_frame {s t : State} (h : step s = .next t) :
    ∃ i cells, t.cfg = s.cfg ∧ WrittenTo cells s.mem t.mem ∧ StatusFrame i s.p t.p := by
  obtain ⟨-, i, n, u, v, hf, hv, rfl⟩ := step_next h
  have hcfg : v.cfg = u.cfg := (exec_registerFrame hv).cfg
  have hmem := exec_writtenTo hv
  have hp := exec_statusFrame hv
  rw [fetch_ok hf] at hcfg hmem hp
  exact ⟨i, _, hcfg, hmem, hp⟩

/-- A status that meets R35 still does after any instruction. -/
theorem StatusFrame.statusOk {i : Instr} {p q : Byte} (h : StatusFrame i p q) (hp : StatusOk p) : StatusOk q := by
  cases hw : writesStatusWhole i with
  | true => exact h.forced hw
  | false =>
    obtain ⟨h5, hB⟩ := h.kept hw
    exact ⟨h5.trans hp.1, hB.trans hp.2⟩

/-- Settles O13: a step writes RAM cells only, and its instruction keeps bits 5 and 4 of the status or forces them. -/
theorem stepKeepsInvariant : Obligations.StepKeepsInvariant := by
  intro s t hs h
  obtain ⟨i, cells, hcfg, hmem, hp⟩ := step_frame h
  exact ⟨hmem.wf hs.wf, hcfg ▸ hmem.placed hs.placed, hp.statusOk hs.status⟩

/-- The byte behind an address of the PRG window is that of its PRG cell (R56). -/
theorem storedByte_prg {s : State} {a : Word} (h : InPrg a) :
    storedByte s a = some (s.mem.get (prgCell s.cfg.prgSize a)) := by
  simp [storedByte, cellOf, window_prg _ h]

/-- Settles O15: no instruction writes the configuration, and PRG cells lie above the RAM cells a step writes. -/
theorem stepKeepsConfigurationAndCartridge : Obligations.StepKeepsConfigurationAndCartridge := by
  intro s t h
  obtain ⟨i, cells, hcfg, hmem, -⟩ := step_frame h
  refine ⟨hcfg, fun a ha => ?_⟩
  have hk : 0x800 ≤ prgCell s.cfg.prgSize a := le_trans (by decide) (prgCell_bound _ a)
  rw [storedByte_prg ha, storedByte_prg ha, hcfg, hmem.get_of_le hk]

/-! ### One instruction -/

/-- Settles O16: a cell an instruction writes is among its `storedCells`. -/
theorem memoryChangesOnlyWhereStored : Obligations.MemoryChangesOnlyWhereStored := by
  intro i s t h a ha
  unfold storedByte
  rw [(exec_registerFrame h).cfg]
  cases hc : cellOf s.cfg.prgSize a with
  | none => rfl
  | some k =>
    have hk : k ∉ storedCells i s := fun hk => ha k hk hc
    exact congrArg some ((exec_writtenTo h).get_of_not_mem hk)

/-- Settles O17: the four register clauses of an instruction's frame. -/
theorem registersChangeOnlyByTheirWriters : Obligations.RegistersChangeOnlyByTheirWriters := by
  intro i s t h
  obtain ⟨-, ha, hx, hy, hsp⟩ := exec_registerFrame h
  exact ⟨ha, hx, hy, hsp⟩

/-- Settles O18: the six flags in what an instruction may do to the status. -/
theorem flagsChangeOnlyByTheirWriters : Obligations.FlagsChangeOnlyByTheirWriters := by
  intro i s t h
  obtain ⟨hc, hv, hnz, hi, hd, -, -⟩ := exec_statusFrame h
  exact ⟨hc, hv, hnz, hi, hd⟩

/-- Settles O19: bits 5 and 4 in what an instruction may do to the status. -/
theorem breakBitsOfTheStatus : Obligations.BreakBitsOfTheStatus := by
  intro i s t h
  obtain ⟨-, -, -, -, -, hkept, hforced⟩ := exec_statusFrame h
  exact ⟨hkept, hforced⟩

/-! ### Stops -/

/-- Settles O8: the stops of a step are `notRunning`, those of its fetch, and those of its instruction. -/
theorem stepStopsOnlyAsSpecified : Obligations.StepStopsOnlyAsSpecified := by
  intro s
  refine ⟨step_of_not_running, fun hr => ⟨fun f h => step_fault_of_running hr h, fun r h => ?_⟩⟩
  refine (step_refused_of_running hr h).imp_right ?_
  rintro ⟨op, u, hf, rfl⟩
  obtain ⟨row, hread, hrow, hrule⟩ := fetch_noRule hf
  have hne : s.cfg.optable ≠ [] := by
    intro e
    rw [e] at hrow
    rw [optableRow_default_hasRule hrow] at hrule
    cases hrule
  exact ⟨hne, op, u, row, hread, hrow, hrule, rfl⟩

/-! ### Canonical memories -/

/-- A listed cell of a canonical memory reads as the byte it is listed with. -/
theorem Memory.get_of_mem {m : Memory} (hm : m.Pairwise fun c d => c.1 < d.1) {c : Host.Cell} (hc : c ∈ m) :
    Memory.get m c.1 = c.2 := by
  induction m with
  | nil => cases hc
  | cons d m ih =>
    obtain ⟨hlt, hsort⟩ := List.pairwise_cons.1 hm
    rcases List.mem_cons.1 hc with rfl | hc
    · exact if_pos rfl
    · exact (if_neg (hlt c hc).ne).trans (ih hsort hc)

/-- The entries of a canonical memory are its cells that read other than blank, each with what it reads as. -/
theorem Memory.mem_iff_get {m : Memory} (hm : m.wf) {c : Host.Cell} :
    c ∈ m ↔ m.get c.1 = c.2 ∧ c.2 ≠ Memory.blank c.1 := by
  constructor
  · exact fun hc => ⟨Memory.get_of_mem hm.1 hc, hm.2 c hc⟩
  · rintro ⟨hget, hne⟩
    have listed : ∃ d ∈ m, d.1 = c.1 := by
      by_contra h
      exact hne (hget.symm.trans (Memory.get_of_not_mem fun d hd e => h ⟨d, hd, e⟩))
    obtain ⟨d, hd, hk⟩ := listed
    have hv : d.2 = c.2 := by rw [← Memory.get_of_mem hm.1 hd, hk, hget]
    exact Prod.ext hk hv ▸ hd

/-- Settles O21: canonical memories that read alike list the same entries, and both list them in the same order. -/
theorem canonicalMemoriesThatReadAlikeAreEqual : Obligations.CanonicalMemoriesThatReadAlikeAreEqual := by
  intro m n hm hn h
  have asymm : Std.Asymm fun c d : Host.Cell => c.1 < d.1 := ⟨fun _ _ => Nat.lt_asymm⟩
  refine hm.1.eq_of_mem_iff hn.1 fun c => ?_
  rw [Memory.mem_iff_get hm, Memory.mem_iff_get hn, h]

/-! ### The initial state -/

/-- Settles O11: the reset vector lies in PRG, so its two bytes are read through the bus without effect. -/
theorem resetStateValues : Obligations.ResetStateValues := by
  have hvector : read16 0xFFFC State.reset = .ok (vectorAt State.reset 0xFFFC) State.reset :=
    read16_prg State.reset (by decide) (by decide)
  exact ⟨rfl, rfl, rfl, rfl, rfl, rfl, hvector⟩

/-- Settles O14: the memory lists nothing, and `P` is `0x24`. -/
theorem resetMeetsInvariant : Obligations.ResetMeetsInvariant where
  wf     := ⟨.nil, nofun⟩
  placed := nofun
  status := by decide

end Sys2Proof.Machine
end

section
/-! PROOFS. The statements of 20_memory.md. -/

namespace Sys2Proof.Machine

/-! ### Byte accesses -/

/-- A 16 KiB cartridge is mirrored (R56). -/
theorem prgCell_kib16 (a : Word) : prgCell .kib16 a = 0x8000 + a.toNat % 0x4000 := rfl

/-- A 32 KiB cartridge is mapped directly (R56). -/
theorem prgCell_kib32 {a : Word} (h : InPrg a) : prgCell .kib32 a = a.toNat := Nat.add_sub_cancel' h

theorem ppuValue_null {s : State} (h : s.cfg.ppu = .null) (reg : BitVec 3) : ppuValue s reg = 0x00 := by
  simp [ppuValue, h]

theorem ppuValue_external {s : State} (h : s.cfg.ppu = .external) (reg : BitVec 3) :
    ppuValue s reg = Config.ppuHookValue s.ppuCalls reg := by
  simp [ppuValue, h]

/-- Settles O22: the byte read of each window, with the hook's answer and the PRG cell of each configuration. -/
theorem busReadByWindow : Obligations.BusReadByWindow := by
  intro a s
  refine ⟨read8_ram, fun ha hn => ?_, fun ha he => ?_, read8_unmapped, fun ha h16 => ?_, fun ha h32 => ?_⟩
  · rw [read8_ppu ha, ppuValue_null hn]; rfl
  · rw [read8_ppu ha, ppuValue_external he]; rfl
  · rw [read8_prg ha, h16, prgCell_kib16]
  · rw [read8_prg ha, h32, prgCell_kib32 ha]

/-- Settles O23: the byte write of each window. -/
theorem busWriteByWindow : Obligations.BusWriteByWindow :=
  fun _ v _ => ⟨write8_ram v, write8_ppu v, write8_unmapped v, write8_prg v⟩

/-- Two addresses have the same low 11 bits exactly when they name the same RAM cell (R52). -/
theorem ramIndex_inj {a b : Word} : a &&& 0x07FF = b &&& 0x07FF ↔ a.toNat % 0x800 = b.toNat % 0x800 := by
  rw [← BitVec.toNat_inj, ramIndex_eq, ramIndex_eq]

/-- Settles O24: both accesses reach the RAM cell of their address, and a memory cell is read back and no other changed. -/
theorem ramMirrorsAlias : Obligations.RamMirrorsAlias := by
  intro a b v s t ha hb hw
  rw [write8_ram v ha] at hw
  cases hw
  rw [read8_ram hb, read8_ram hb, ne_eq, ramIndex_inj]
  refine ⟨fun h => ?_, fun h w hread => ?_⟩
  · rw [← h, Memory.get_set_same]
  · cases hread
    rw [Memory.get_set_ne _ v (Ne.symm h)]

/-! ### Word accesses -/

theorem read16_of_read8 {a : Word} {s t u : State} {l h : Byte} (hl : read8 a s = .ok l t)
    (hh : read8 (a + 1) t = .ok h u) : read16 a s = .ok (wordOf h l) u :=
  Access.bind_ok.2 ⟨l, t, hl, Access.bind_ok.2 ⟨h, u, hh, rfl⟩⟩

theorem read16_stop_low {a : Word} {s : State} {c : FatalCondition} {calls : List PpuCall}
    (hl : read8 a s = .stop c calls) : read16 a s = .stop c calls :=
  Access.bind_stop.2 (.inl hl)

theorem read16_stop_high {a : Word} {s t : State} {l : Byte} {c : FatalCondition} {calls : List PpuCall}
    (hl : read8 a s = .ok l t) (hh : read8 (a + 1) t = .stop c calls) : read16 a s = .stop c calls :=
  Access.bind_stop.2 (.inr ⟨l, t, hl, Access.bind_stop.2 (.inl hh)⟩)

theorem write16_of_write8 {a w : Word} {s t u : State} (hl : write8 a (lo w) s = .ok () t)
    (hh : write8 (a + 1) (hi w) t = .ok () u) : write16 a w s = .ok () u :=
  Access.bind_ok.2 ⟨(), t, hl, hh⟩

theorem write16_stop_low {a w : Word} {s : State} {c : FatalCondition} {calls : List PpuCall}
    (hl : write8 a (lo w) s = .stop c calls) : write16 a w s = .stop c calls :=
  Access.bind_stop.2 (.inl hl)

theorem write16_stop_high {a w : Word} {s t : State} {c : FatalCondition} {calls : List PpuCall}
    (hl : write8 a (lo w) s = .ok () t) (hh : write8 (a + 1) (hi w) t = .stop c calls) :
    write16 a w s = .stop c calls :=
  Access.bind_stop.2 (.inr ⟨(), t, hl, hh⟩)

/-- A word of RAM reads as its two cells. -/
theorem read16_ram {a : Word} {s : State} (h : InRam a) (h1 : InRam (a + 1)) :
    read16 a s = .ok (wordOf (s.mem.get (ramCell (a + 1))) (s.mem.get (ramCell a))) s :=
  read16_of_read8 (read8_ram h) (read8_ram h1)

/-- A word written to RAM sets its two cells. -/
theorem write16_ram {a : Word} (w : Word) {s : State} (h : InRam a) (h1 : InRam (a + 1)) :
    write16 a w s = .ok () { s with mem := (s.mem.set (ramCell a) (lo w)).set (ramCell (a + 1)) (hi w) } :=
  write16_of_write8 (write8_ram (lo w) h) (write8_ram (hi w) h1)

/-- Neighbouring RAM addresses name different cells, across a mirror boundary too (R52). -/
theorem ramCell_ne_ramCell_succ {a : Word} (h : InRam a) : ramCell a ≠ ramCell (a + 1) := by
  have hn : (a + 1).toNat = a.toNat + 1 := BitVec.toNat_add_of_lt (by show a.toNat + 1 < 2 ^ 16; omega)
  simp only [ramCell, hn]
  omega

/-- A word written to RAM reads back: the byte written second does not touch the cell of the first. -/
theorem read16_write16_ram {a w : Word} {s t : State} (h : InRam a) (h1 : InRam (a + 1))
    (hw : write16 a w s = .ok () t) : read16 a t = .ok w t := by
  rw [write16_ram w h h1] at hw
  cases hw
  rw [read16_ram h h1, Memory.get_set_same, Memory.get_set_ne _ _ (ramCell_ne_ramCell_succ h), Memory.get_set_same,
    wordOf_hi_lo]

/-- Settles O25: the outcomes of two accesses in sequence, and the read-back through two different RAM cells. -/
theorem wordAccessIsTwoByteAccesses : Obligations.WordAccessIsTwoByteAccesses :=
  fun _ _ => ⟨fun _ _ _ _ => read16_of_read8, fun _ _ => read16_stop_low, fun _ _ _ _ => read16_stop_high,
    fun _ _ _ => write16_of_write8, fun _ _ _ => write16_stop_low, fun _ _ _ _ => write16_stop_high,
    fun _ _ => read16_write16_ram⟩

/-! ### The stack -/

theorem pull8_push8_sp (v : Byte) (s : State) : (pull8 (push8 v s)).sp = s.sp := by simp

/-- A pull gives back the byte pushed (R67). -/
theorem pulledByte_push8 (v : Byte) (s : State) : pulledByte (push8 v s) = v := by
  simp [pulledByte, Memory.get_set_same]

/-- Under the byte pushed and pulled stands what stood there before: the push wrote the slot at `SP`, not the next. -/
theorem pulledByte_pull8_push8 (v : Byte) (s : State) : pulledByte (pull8 (push8 v s)) = pulledByte s := by
  have hne : stackCell (s.sp + 1) ≠ stackCell s.sp := fun h => absurd (stackCell_inj.1 h) (by simp)
  rw [pulledByte, pull8_push8_sp, pull8_mem, push8_mem, Memory.get_set_ne _ v hne]
  rfl

/-- A pull gives back the word pushed (R69): the low byte, then the high byte under it. -/
theorem pulledWord_push16 (w : Word) (s : State) : pulledWord (push16 w s) = w := by
  have hl : pulledByte (push16 w s) = lo w := pulledByte_push8 _ _
  have hh : pulledByte (pull8 (push16 w s)) = hi w := (pulledByte_pull8_push8 _ _).trans (pulledByte_push8 _ _)
  rw [pulledWord, hl, hh, wordOf_hi_lo]

theorem pull16_push16_sp (w : Word) (s : State) : (pull16 (push16 w s)).sp = s.sp := by simp [pull16]

/-- Settles O26: the pushes and pulls as bus accesses, and what a pull after a push gives. -/
theorem pushThenPullIsIdentity : Obligations.PushThenPullIsIdentity := by
  intro v w s
  refine ⟨⟨rfl, push8_eq_write8 v s, rfl, pull8_eq_read8 s, pulledByte_push8 v s, pull8_push8_sp v s⟩, ?_⟩
  exact ⟨rfl, rfl, rfl, pulledWord_push16 w s, pull16_push16_sp w s⟩

/-! ### The faults of the fetch -/

theorem step_of_fetch_stop {s : State} {c : FatalCondition} {calls : List PpuCall} (hr : s.run = .running)
    (h : fetch s = .stop c calls) : step s = .fault (.fatal c calls) := by
  rw [step_of_running hr, h]

theorem fetch_unmapped {s : State} (h : InUnmapped s.pc) :
    fetch s = .stop (.unmappedAddress s.pc .read) s.ppuCalls :=
  Access.bind_stop.2 (.inl (read8_unmapped h))

section
variable {s u : State} {op : Byte} {row : OpcodeRow} (hread : read8 s.pc s = .ok op u)
include hread

theorem read8_pc_of_ok : u.pc = s.pc := by rw [read8_ok hread]

theorem fetch_unknownOpcode (hrow : optableRow s.cfg.optable op = none) :
    fetch s = .stop (.unknownOpcode op s.pc) u.ppuCalls := by
  rw [fetch_of_read8 hread, hrow]

variable (hrow : optableRow s.cfg.optable op = some row)
include hrow

/-- A row whose one operand byte the step passes over fetches without a further bus access. -/
theorem fetch_unread {f : Byte → Instr} (hs : rowShape op row = some (.unread f)) :
    fetch s = .ok (.instr (f (skippedByte u (u.pc + 1))) row.cycles) u :=
  fetch_of_row hread hrow hs

/-- The fault of an operand byte is the fault of the fetch. -/
theorem fetch_of_readOperandBytes_stop {sh : Shape} {c : FatalCondition} {calls : List PpuCall}
    (hs : rowShape op row = some sh) (h : readOperandBytes sh u = .stop c calls) : fetch s = .stop c calls := by
  rw [fetch_of_row hread hrow hs]
  exact Access.bind_stop.2 (.inl h)

/-- The first operand byte a row reads is that at `pc + 1`, whether it reads one byte or two. -/
theorem fetch_first_operand_unmapped (hrule : row.hasRule = true) (hn : 1 ≤ operandBytesRead row)
    (ha : InUnmapped (s.pc + 1)) : fetch s = .stop (.unmappedAddress (s.pc + 1) .read) u.ppuCalls := by
  rw [← read8_pc_of_ok hread] at ha ⊢
  have hstop := read8_unmapped (s := u) ha
  obtain ⟨-, hone, htwo, hle⟩ := rowShape_reads (op := op) hrule
  obtain h1 | h2 : operandBytesRead row = 1 ∨ operandBytesRead row = 2 := by omega
  · obtain ⟨f, hs⟩ := hone h1
    exact fetch_of_readOperandBytes_stop hread hrow hs (Access.bind_stop.2 (.inl hstop))
  · obtain ⟨f, hs⟩ := htwo h2
    exact fetch_of_readOperandBytes_stop hread hrow hs (Access.bind_stop.2 (.inl (read16_stop_low hstop)))

/-- The second operand byte a row reads is that at `pc + 2`, read after the first. -/
theorem fetch_second_operand_unmapped {b : Byte} {v : State} (hrule : row.hasRule = true)
    (hn : operandBytesRead row = 2) (hfirst : read8 (s.pc + 1) u = .ok b v) (ha : InUnmapped (s.pc + 2)) :
    fetch s = .stop (.unmappedAddress (s.pc + 2) .read) v.ppuCalls := by
  obtain ⟨-, -, htwo, -⟩ := rowShape_reads (op := op) hrule
  obtain ⟨f, hs⟩ := htwo hn
  have hnext : s.pc + 2 = s.pc + 1 + 1 := (add_assoc s.pc 1 1).symm
  rw [hnext] at ha ⊢
  have hstop := read16_stop_high hfirst (read8_unmapped ha)
  rw [← read8_pc_of_ok hread] at hstop ⊢
  exact fetch_of_readOperandBytes_stop hread hrow hs (Access.bind_stop.2 (.inl hstop))

/-- A `KIL` or `XAA` row in any mode fetches, with no operand byte read, an instruction that is fatal (R120, R304). -/
theorem fetch_kilOrXaa (h : row.mnemonic = .kil ∨ row.mnemonic = .xaa) :
    ∃ i n, fetch s = .ok (.instr i n) u ∧
      exec i u = .fault (.fatal (.kilOrUnstableOpcode op s.pc) u.ppuCalls) := by
  rw [← read8_pc_of_ok hread]
  obtain ⟨mnemonic, mode, cycles⟩ := row
  rcases h with rfl | rfl
  · exact ⟨.kil op, cycles, fetch_of_row hread hrow rfl, rfl⟩
  · exact ⟨_, cycles, fetch_unread hread hrow rfl, rfl⟩

/-- A `DOP` Immediate row fetches its instruction whatever stands behind the opcode byte (R258). -/
theorem fetch_dop_immediate (hm : row.mnemonic = .dop) (ha : row.mode = .immediate) :
    ∃ b n, fetch s = .ok (.instr (.dop op (.imm b)) n) u := by
  obtain ⟨mnemonic, mode, cycles⟩ := row
  subst hm ha
  exact ⟨_, cycles, fetch_unread hread hrow rfl⟩

theorem step_kilOrXaa (hr : s.run = .running) (h : row.mnemonic = .kil ∨ row.mnemonic = .xaa) :
    step s = .fault (.fatal (.kilOrUnstableOpcode op s.pc) u.ppuCalls) := by
  obtain ⟨i, n, hf, he⟩ := fetch_kilOrXaa hread hrow h
  obtain ⟨-, hfault, -⟩ := stepsAs_of_fetch hr hf
  exact hfault _ he

theorem step_dop_immediate (hr : s.run = .running) (hm : row.mnemonic = .dop) (ha : row.mode = .immediate) :
    ∃ c, step s = .next { u with pc := s.pc + 2, cycles := c } := by
  obtain ⟨b, n, hf⟩ := fetch_dop_immediate hread hrow hm ha
  obtain ⟨hnext, -, -⟩ := stepsAs_of_fetch hr hf
  rw [← read8_pc_of_ok hread]
  exact hnext _ rfl

end

/-- The `DOP` Immediate rows of the default table (R97, R258). -/
theorem optableRow_default_dop_immediate (op : Byte) :
    op ∈ dopBytes .immediate ↔ ∃ row, optableRow [] op = some row ∧ row.mnemonic = .dop ∧ row.mode = .immediate := by
  have all : ∀ op : Byte, op ∈ dopBytes .immediate ↔
      ∃ row ∈ optableRow [] op, row.mnemonic = .dop ∧ row.mode = .immediate := by decide
  exact all op

/-- Settles O6: the fetch stops at the first of its accesses that faults, and `KIL`, `XAA` and `DOP` Immediate make none
after the opcode byte's. -/
theorem fetchFaults : Obligations.FetchFaults := by
  intro s hr
  refine ⟨fun ha => step_of_fetch_stop hr (fetch_unmapped ha), fun op u hread =>
    ⟨fun hnone => step_of_fetch_stop hr (fetch_unknownOpcode hread hnone), fun row hrow => ⟨?_, ?_, ?_, ?_⟩⟩, ?_⟩
  · exact step_kilOrXaa hread hrow hr
  · exact fun hrule hn ha => step_of_fetch_stop hr (fetch_first_operand_unmapped hread hrow hrule hn ha)
  · exact fun hrule hn _ _ hfirst ha =>
      step_of_fetch_stop hr (fetch_second_operand_unmapped hread hrow hrule hn hfirst ha)
  · exact step_dop_immediate hread hrow hr
  · intro hdefault op
    rw [hdefault]
    exact optableRow_default_dop_immediate op

end Sys2Proof.Machine
end

section
/-! PROOFS. The opcode table read in both directions (30_encoding.md R94 to R97): what the decoder makes of a row and
its operand bytes, what the instructions of one row have in common, and the row of each well-formed instruction. -/

namespace Sys2Proof

/-! ### A row with its operand bytes -/

/-- The instruction a shape makes of its operand bytes; a shape with fewer than two does not look at the others. -/
def Shape.instr : Shape → Byte → Byte → Instr
  | .one i, _, _ => i
  | .two f, l, _ => f l
  | .unread f, l, _ => f l
  | .three f, l, h => f (wordOf h l)

/-- The operand bytes of a shape, low byte first (R91). -/
def Shape.operands : Shape → Byte → Byte → List Byte
  | .one _, _, _ => []
  | .two _, l, _ => [l]
  | .unread _, l, _ => [l]
  | .three _, l, h => [l, h]

/-- Two bytes are enough for any shape. -/
theorem Shape.exists_operands_append (sh : Shape) (l h : Byte) (rest : List Byte) :
    ∃ rest', l :: h :: rest = sh.operands l h ++ rest' := by
  cases sh with
  | one i => exact ⟨l :: h :: rest, rfl⟩
  | two f | unread f => exact ⟨h :: rest, rfl⟩
  | three f => exact ⟨rest, rfl⟩

/-- The rows with an instruction rule (R94, R120). -/
theorem OpcodeRow.hasRule_iff {row : OpcodeRow} :
    row.hasRule = true ↔ row.mnemonic = .kil ∨ row.mnemonic = .xaa ∨ row.mode ∈ modesOf row.mnemonic := by
  unfold OpcodeRow.hasRule
  split <;> simp_all

theorem rowShape_of_hasRule (op : Byte) {row : OpcodeRow} (h : row.hasRule = true) :
    rowShape op row = instrShape op row.mnemonic row.mode :=
  if_pos h

theorem exists_rowShape (op : Byte) {row : OpcodeRow} (h : row.hasRule = true) : ∃ sh, rowShape op row = some sh :=
  Option.isSome_iff_exists.1 ((rowShape_isSome op row).trans h)

theorem instrShape_of_rowShape {op : Byte} {row : OpcodeRow} {sh : Shape} (h : rowShape op row = some sh) :
    instrShape op row.mnemonic row.mode = some sh :=
  (rowShape_of_hasRule op (by rw [← rowShape_isSome op, h]; rfl)).symm.trans h

/-! ### The decoder by rows -/

section
variable {table : List (Byte × Option OpcodeRow)} {op : Byte} {row : OpcodeRow}

theorem decodeWith_unknownOpcode (hrow : optableRow table op = none) (rest : List Byte) :
    decodeWith table (op :: rest) = .error (.unknownOpcode op) := by
  simp [decodeWith, hrow]

theorem decodeWith_noRule (hrow : optableRow table op = some row) (hs : rowShape op row = none) (rest : List Byte) :
    decodeWith table (op :: rest) = .error (.noRule op) := by
  simp [decodeWith, hrow, hs]

theorem decodeWith_of_rowShape {sh : Shape} (hrow : optableRow table op = some row) (hs : rowShape op row = some sh)
    (l h : Byte) (rest : List Byte) :
    decodeWith table (op :: (sh.operands l h ++ rest)) = .ok (sh.instr l h, rest) := by
  cases sh <;> simp [decodeWith, hrow, hs, Shape.operands, Shape.instr]

end

/-- Bytes that decode are an opcode byte with a row, the operand bytes of that row, and the rest. -/
theorem decodeWith_ok {table : List (Byte × Option OpcodeRow)} {bytes rest : List Byte} {i : Instr}
    (h : decodeWith table bytes = .ok (i, rest)) :
    ∃ op row sh lb hb, optableRow table op = some row ∧ rowShape op row = some sh ∧
      bytes = op :: (sh.operands lb hb ++ rest) ∧ i = sh.instr lb hb := by
  cases bytes with
  | nil => cases h
  | cons op bytes =>
    cases hrow : optableRow table op with
    | none => rw [decodeWith_unknownOpcode hrow] at h; cases h
    | some row =>
      cases hs : rowShape op row with
      | none => rw [decodeWith_noRule hrow hs] at h; cases h
      | some sh =>
        refine ⟨op, row, sh, bytes.headD 0, bytes.tail.headD 0, hrow, hs, ?_⟩
        simp only [decodeWith, hrow, hs] at h
        cases sh with
        | one i => cases h; exact ⟨rfl, rfl⟩
        | two f | unread f =>
          rcases bytes with _ | ⟨lb, bytes⟩ <;> cases h
          exact ⟨rfl, rfl⟩
        | three f =>
          rcases bytes with _ | ⟨lb, _ | ⟨hb, bytes⟩⟩ <;> cases h
          exact ⟨rfl, rfl⟩

/-- A row with an instruction rule decodes with any two bytes behind its opcode byte. -/
theorem exists_decodeWith_of_hasRule {table : List (Byte × Option OpcodeRow)} {op : Byte} {row : OpcodeRow}
    (hrow : optableRow table op = some row) (h : row.hasRule = true) (b1 b2 : Byte) (rest : List Byte) :
    ∃ sh rest', instrShape op row.mnemonic row.mode = some sh ∧
      decodeWith table (op :: b1 :: b2 :: rest) = .ok (sh.instr b1 b2, rest') := by
  obtain ⟨sh, hs⟩ := exists_rowShape op h
  obtain ⟨rest', hbytes⟩ := sh.exists_operands_append b1 b2 rest
  exact ⟨sh, rest', instrShape_of_rowShape hs, hbytes ▸ decodeWith_of_rowShape hrow hs b1 b2 rest'⟩

/-! ### The encoder by modes -/

/-- The opcode byte of a mnemonic in a mode of data operands. -/
def Forms.ofMode (f : Forms) : Mode → Option Byte
  | .immediate => f.imm
  | .accumulator => f.acc
  | .zeroPage => f.zp
  | .zeroPageX => f.zpx
  | .zeroPageY => f.zpy
  | .absolute => f.abs
  | .absoluteX => f.abx
  | .absoluteY => f.aby
  | .indirectX => f.inx
  | .indirectY => f.iny
  | .implied | .relative | .indirect => none

theorem Forms.ofAddressing_eq_ofMode (f : Forms) (ad : Addressing) : f.ofAddressing ad = f.ofMode ad.mode := by
  cases ad <;> rfl

theorem Forms.ofOperand_eq_ofMode (f : Forms) (m : Operand) : f.ofOperand m = f.ofMode m.mode := by
  cases m with
  | imm b | acc => rfl
  | mem ad => exact f.ofAddressing_eq_ofMode ad

/-- The opcode byte goes by the mode of the operand alone. -/
theorem Forms.ofAddressing_congr (f : Forms) {ad ad' : Addressing} (h : ad.mode = ad'.mode) :
    f.ofAddressing ad = f.ofAddressing ad' := by
  rw [ofAddressing_eq_ofMode, ofAddressing_eq_ofMode, h]

theorem Forms.ofOperand_congr (f : Forms) {m m' : Operand} (h : m.mode = m'.mode) :
    f.ofOperand m = f.ofOperand m' := by
  rw [ofOperand_eq_ofMode, ofOperand_eq_ofMode, h]

/-! ### The instructions of a row -/

/-- What is so of the instruction a shape of `mnemonic` and `mode` makes of its operand bytes: those are its operand
bytes, and its opcode byte is the one it has with zeros for them. -/
structure FromRow (mnemonic : Mnemonic) (mode : Mode) (sh : Shape) (l h : Byte) : Prop where
  mnemonic_eq : (sh.instr l h).mnemonic = mnemonic
  mode_eq     : mode ∈ modesOf mnemonic → (sh.instr l h).mode = mode
  operands    : operandBytes (sh.instr l h) = sh.operands l h
  opcode      : opcodeOf (sh.instr l h) = opcodeOf (sh.instr 0 0)
  ownByte     : (sh.instr l h).ownByte = (sh.instr 0 0).ownByte

/-- A word operand is its two operand bytes (R91). -/
@[simp] theorem wordBytes_wordOf (h l : Byte) : wordBytes (wordOf h l) = [l, h] := by simp [wordBytes]

theorem addressingShape_instr {k : Addressing → Instr} {mode : Mode} {sh : Shape}
    (hs : addressingShape k mode = some sh) (l h : Byte) :
    ∃ ad : Addressing, sh.instr l h = k ad ∧ ad.mode = mode ∧ ad.bytes = sh.operands l h := by
  cases mode with
  | zeroPage | zeroPageX | zeroPageY | indirectX | indirectY =>
    cases hs
    exact ⟨_, rfl, rfl, rfl⟩
  | absolute | absoluteX | absoluteY =>
    cases hs
    exact ⟨_, rfl, rfl, wordBytes_wordOf h l⟩
  | implied | accumulator | immediate | relative | indirect => cases hs

theorem operandShape_instr {k : Operand → Instr} {mode : Mode} {sh : Shape} (hs : operandShape k mode = some sh)
    (l h : Byte) : ∃ m : Operand, sh.instr l h = k m ∧ m.mode = mode ∧ m.bytes = sh.operands l h := by
  unfold operandShape at hs
  split at hs
  · cases hs
    exact ⟨_, rfl, rfl, rfl⟩
  · cases hs
    exact ⟨_, rfl, rfl, rfl⟩
  · obtain ⟨ad, hi, hmode, hbytes⟩ := addressingShape_instr hs l h
    exact ⟨.mem ad, hi, hmode, hbytes⟩

theorem dopShape_instr {op : Byte} {mode : Mode} {sh : Shape} (hs : instrShape op .dop mode = some sh)
    (l h : Byte) : ∃ m : Operand, sh.instr l h = .dop op m ∧ m.mode = mode ∧ m.bytes = sh.operands l h := by
  simp only [instrShape] at hs
  split at hs
  · cases hs
    exact ⟨.imm l, rfl, rfl, rfl⟩
  · exact operandShape_instr hs l h

/-- A mnemonic whose instructions `k` carry an operand in the row's mode: the opcode byte goes by the mode alone. -/
theorem FromRow.of_operand {α : Type} {k : α → Instr} {modeOf : α → Mode} {bytesOf : α → List Byte}
    {mnemonic : Mnemonic} {mode : Mode} {sh : Shape} {l h : Byte}
    (hs : ∀ l h, ∃ m, sh.instr l h = k m ∧ modeOf m = mode ∧ bytesOf m = sh.operands l h)
    (hk : ∀ m, (k m).mnemonic = mnemonic ∧ (k m).mode = modeOf m ∧ operandBytes (k m) = bytesOf m)
    (hop : ∀ m m', modeOf m = modeOf m' → opcodeOf (k m) = opcodeOf (k m') ∧ (k m).ownByte = (k m').ownByte) :
    FromRow mnemonic mode sh l h := by
  obtain ⟨m, hi, hm, hb⟩ := hs l h
  obtain ⟨m0, hi0, hm0, -⟩ := hs 0 0
  obtain ⟨hmnemonic, hmode, hbytes⟩ := hk m
  obtain ⟨hopcode, hown⟩ := hop m m0 (hm.trans hm0.symm)
  rw [← hi] at hmnemonic hmode hbytes
  rw [← hi, ← hi0] at hopcode hown
  exact ⟨hmnemonic, fun _ => hmode.trans hm, hbytes.trans hb, hopcode, hown⟩

/-- The mnemonics split by the operands their shape distinguishes: memory operands, data operands, `JMP`'s two, and
none, where the mode is not looked at. -/
theorem fromRow_of_instrShape {op : Byte} {mnemonic : Mnemonic} {mode : Mode} {sh : Shape}
    (hs : instrShape op mnemonic mode = some sh) (l h : Byte) : FromRow mnemonic mode sh l h := by
  cases mnemonic with
  | sta | stx | sty | bit | inc | dec | lax | sax | dcp | isb | slo | rla | sre | rra | axa =>
    exact .of_operand (addressingShape_instr hs) (fun _ => ⟨rfl, rfl, rfl⟩)
      fun _ _ e => ⟨Forms.ofAddressing_congr _ e, rfl⟩
  | lda | ldx | ldy | adc | sbc | and | ora | eor | cmp | cpx | cpy | asl | lsr | rol | ror =>
    exact .of_operand (operandShape_instr hs) (fun _ => ⟨rfl, rfl, rfl⟩)
      fun _ _ e => ⟨Forms.ofOperand_congr _ e, rfl⟩
  | top =>
    exact .of_operand (addressingShape_instr hs) (fun _ => ⟨rfl, rfl, rfl⟩)
      fun _ _ e => ⟨rfl, congrArg (fun mode => (topBytes mode).contains op) e⟩
  | dop =>
    exact .of_operand (dopShape_instr hs) (fun _ => ⟨rfl, rfl, rfl⟩)
      fun _ _ e => ⟨rfl, congrArg (fun mode => (dopBytes mode).contains op) e⟩
  | jmp =>
    cases mode with
    | indirect | absolute => cases hs; exact ⟨rfl, fun _ => rfl, wordBytes_wordOf h l, rfl, rfl⟩
    | implied | accumulator | immediate | relative | zeroPage | zeroPageX | zeroPageY | absoluteX | absoluteY
    | indirectX | indirectY =>
      cases hs
      exact ⟨rfl, fun hmode => absurd hmode (by decide), wordBytes_wordOf h l, rfl, rfl⟩
  | jsr | sxa | sya | xas | lar =>
    cases hs
    exact ⟨rfl, fun hmode => (List.mem_singleton.1 hmode).symm, wordBytes_wordOf h l, rfl, rfl⟩
  | tax | tay | tsx | txa | tya | txs | inx | iny | dex | dey | bcc | bcs | beq | bne | bmi | bpl | bvc | bvs
  | rts | rti | brk | pha | pla | php | plp | clc | sec | cld | sed | cli | sei | clv | nop | nopStar | sbcStar | aac
  | arr | asr | atx | axs | kil | xaa =>
    cases hs
    exact ⟨rfl, fun hmode => (List.mem_singleton.1 hmode).symm, rfl, rfl, rfl⟩

/-- The opcode map R97 agrees with the lists R95 and R96: the instruction of each row of the default table is well
formed and has that row's opcode byte. -/
theorem opcodeOf_of_default_row {op : Byte} {row : OpcodeRow} {sh : Shape} (hrow : optableRow [] op = some row)
    (hs : rowShape op row = some sh) (l h : Byte) :
    opcodeOf (sh.instr l h) = some op ∧ (sh.instr l h).wellFormed = true := by
  have modes : ∀ op : Byte, ∀ row ∈ optableRow [] op, row.mode ∈ modesOf row.mnemonic := by decide
  have withZeros : ∀ op : Byte, ∀ row ∈ optableRow [] op, ∀ sh ∈ rowShape op row,
      opcodeOf (sh.instr 0 0) = some op ∧ (sh.instr 0 0).ownByte = true := by decide
  obtain ⟨hmn, hmode, -, hopcode, hown⟩ := fromRow_of_instrShape (instrShape_of_rowShape hs) l h
  obtain ⟨hop0, hown0⟩ := withZeros op row hrow sh hs
  have hmem := modes op row hrow
  refine ⟨hopcode.trans hop0, wellFormed_iff.2 ⟨hown.trans hown0, ?_⟩⟩
  rwa [hmode hmem, hmn]

/-! ### The shape of an instruction -/

theorem exists_addressingShape (k : Addressing → Instr) (ad : Addressing) :
    ∃ sh l h, addressingShape k ad.mode = some sh ∧ sh.instr l h = k ad := by
  cases ad with
  | zp b | zpx b | zpy b | inx b | iny b => exact ⟨_, b, 0, rfl, rfl⟩
  | abs w | abx w | aby w => exact ⟨_, lo w, hi w, rfl, by simp [Shape.instr]⟩

theorem operandShape_mem (k : Operand → Instr) (ad : Addressing) :
    operandShape k ad.mode = addressingShape (fun ad => k (.mem ad)) ad.mode := by
  cases ad <;> rfl

theorem dopShape_mem (op : Byte) (ad : Addressing) :
    instrShape op .dop ad.mode = addressingShape (fun ad => .dop op (.mem ad)) ad.mode := by
  cases ad <;> rfl

theorem exists_operandShape (k : Operand → Instr) (m : Operand) :
    ∃ sh l h, operandShape k m.mode = some sh ∧ sh.instr l h = k m := by
  cases m with
  | imm b => exact ⟨_, b, 0, rfl, rfl⟩
  | acc => exact ⟨_, 0, 0, rfl, rfl⟩
  | mem ad =>
    rw [Operand.mode, operandShape_mem]
    exact exists_addressingShape _ ad

theorem exists_dopShape (op : Byte) (m : Operand) :
    ∃ sh l h, instrShape op .dop m.mode = some sh ∧ sh.instr l h = .dop op m := by
  cases m with
  | imm b => exact ⟨_, b, 0, rfl, rfl⟩
  | acc => exact ⟨_, 0, 0, rfl, rfl⟩
  | mem ad =>
    rw [Operand.mode, dopShape_mem]
    exact exists_addressingShape _ ad

/-- Every instruction is made, under its opcode byte, by the shape of its mnemonic and mode. -/
theorem exists_instrShape {i : Instr} {op : Byte} (hop : opcodeOf i = some op) :
    ∃ sh l h, instrShape op i.mnemonic i.mode = some sh ∧ sh.instr l h = i := by
  cases i with
  | lda m | ldx m | ldy m | adc m | sbc m | and m | ora m | eor m | cmp m | cpx m | cpy m | asl m | lsr m | rol m
  | ror m => exact exists_operandShape _ m
  | sta m | stx m | sty m | bit m | inc m | dec m | lax m | sax m | dcp m | isb m | slo m | rla m | sre m | rra m
  | axa m => exact exists_addressingShape _ m
  | tax | tay | tsx | txa | tya | txs | inx | iny | dex | dey | rts | rti | brk | pha | pla | php | plp | clc | sec
  | cld | sed | cli | sei | clv | nop => exact ⟨_, 0, 0, rfl, rfl⟩
  | bcc b | bcs b | beq b | bne b | bmi b | bpl b | bvc b | bvs b | sbcStar b | arr b | asr b | atx b | axs b =>
    exact ⟨_, b, 0, rfl, rfl⟩
  | jsr w | sxa w | sya w | xas w | lar w => exact ⟨_, lo w, hi w, rfl, by simp [Shape.instr]⟩
  | jmp t =>
    cases t with
    | abs w | ind w => exact ⟨_, lo w, hi w, rfl, by simp [Shape.instr]⟩
  | dop op' m =>
    cases hop
    exact exists_dopShape op m
  | top op' m =>
    cases hop
    exact exists_addressingShape _ m
  | nopStar op' | kil op' =>
    cases hop
    exact ⟨_, 0, 0, rfl, rfl⟩
  | aac op' b =>
    cases hop
    exact ⟨_, b, 0, rfl, rfl⟩
  | xaa bytes =>
    cases hop
    exact ⟨_, bytes.2, 0, rfl, rfl⟩

/-! ### The row of an instruction -/

/-- The default table gives the byte to a mnemonic in a mode. -/
abbrev HasDefaultRow (mnemonic : Mnemonic) (mode : Mode) (op : Byte) : Prop :=
  ∃ row ∈ optableRow [] op, row.mnemonic = mnemonic ∧ row.mode = mode

section
variable {f : Forms} {mnemonic : Mnemonic}
  (hf : ∀ mode ∈ modesOf mnemonic,
    ∃ row ∈ (f.ofMode mode).bind (optableRow []), row.mnemonic = mnemonic ∧ row.mode = mode)
include hf

theorem Forms.exists_defaultRow {mode : Mode} (h : mode ∈ modesOf mnemonic) :
    ∃ op, f.ofMode mode = some op ∧ HasDefaultRow mnemonic mode op := by
  obtain ⟨row, hrow, hmode⟩ := hf mode h
  obtain ⟨op, hop, hrow⟩ := Option.bind_eq_some_iff.1 hrow
  exact ⟨op, hop, row, hrow, hmode⟩

theorem Forms.exists_defaultRow_addressing {ad : Addressing} (h : ad.mode ∈ modesOf mnemonic) :
    ∃ op, f.ofAddressing ad = some op ∧ HasDefaultRow mnemonic ad.mode op :=
  f.ofAddressing_eq_ofMode ad ▸ f.exists_defaultRow hf h

theorem Forms.exists_defaultRow_operand {m : Operand} (h : m.mode ∈ modesOf mnemonic) :
    ∃ op, f.ofOperand m = some op ∧ HasDefaultRow mnemonic m.mode op :=
  f.ofOperand_eq_ofMode m ▸ f.exists_defaultRow hf h

end

/-- A byte of a list all of whose bytes have a row. (`all` runs through the list, where deciding `∀ op ∈ bytes` tries
every byte.) -/
theorem hasDefaultRow_of_contains {mnemonic : Mnemonic} {mode : Mode} {bytes : List Byte} {op : Byte}
    (hall : bytes.all (fun op => HasDefaultRow mnemonic mode op) = true) (h : bytes.contains op = true) :
    HasDefaultRow mnemonic mode op :=
  of_decide_eq_true (List.all_eq_true.1 hall op (List.contains_iff_mem.1 h))

/-- The lists R95 and R96 agree with the opcode map R97: the opcode byte of a well-formed instruction has a row of its
mnemonic and mode in the default table. -/
theorem exists_defaultRow_of_wellFormed {i : Instr} (h : i.wellFormed = true) :
    ∃ op, opcodeOf i = some op ∧ HasDefaultRow i.mnemonic i.mode op := by
  obtain ⟨hown, hmode⟩ := wellFormed_iff.1 h
  cases i with
  | lda m | ldx m | ldy m | adc m | sbc m | and m | ora m | eor m | cmp m | cpx m | cpy m | asl m | lsr m | rol m
  | ror m => exact Forms.exists_defaultRow_operand (by simp only [Instr.mnemonic]; decide) hmode
  | sta m | stx m | sty m | bit m | inc m | dec m | lax m | sax m | dcp m | isb m | slo m | rla m | sre m | rra m
  | axa m => exact Forms.exists_defaultRow_addressing (by simp only [Instr.mnemonic]; decide) hmode
  | tax | tay | tsx | txa | tya | txs | inx | iny | dex | dey | bcc b | bcs b | beq b | bne b | bmi b | bpl b | bvc b
  | bvs b | jsr w | rts | rti | brk | pha | pla | php | plp | clc | sec | cld | sed | cli | sei | clv | nop | sbcStar b
  | arr b | asr b | atx b | axs b | sxa w | sya w | xas w | lar w => exact ⟨_, rfl, _, rfl, rfl, rfl⟩
  | jmp t =>
    cases t with
    | abs w | ind w => exact ⟨_, rfl, _, rfl, rfl, rfl⟩
  | dop op m =>
    have rows : ∀ mode ∈ modesOf .dop, (dopBytes mode).all (fun op => HasDefaultRow .dop mode op) = true := by decide
    exact ⟨op, rfl, hasDefaultRow_of_contains (rows _ hmode) hown⟩
  | top op m =>
    have rows : ∀ mode ∈ modesOf .top, (topBytes mode).all (fun op => HasDefaultRow .top mode op) = true := by decide
    exact ⟨op, rfl, hasDefaultRow_of_contains (rows _ hmode) hown⟩
  | nopStar op => exact ⟨op, rfl, hasDefaultRow_of_contains (mnemonic := .nopStar) (mode := .implied) (by decide) hown⟩
  | aac op b => exact ⟨op, rfl, hasDefaultRow_of_contains (mnemonic := .aac) (mode := .immediate) (by decide) hown⟩
  | kil op => exact ⟨op, rfl, hasDefaultRow_of_contains (mnemonic := .kil) (mode := .implied) (by decide) hown⟩
  | xaa bytes =>
    have hop : bytes.1 = 0x8B := beq_iff_eq.1 hown
    exact ⟨_, congrArg some hop, _, rfl, rfl, rfl⟩

end Sys2Proof
end

section
/-! PROOFS. The statements of 30_encoding.md. -/

namespace Sys2Proof

/-- The encoding of an instruction is its opcode byte and its operand bytes (R91). -/
theorem encode_of_opcodeOf {i : Instr} {op : Byte} (h : opcodeOf i = some op) : encode i = op :: operandBytes i := by
  simp [encode, h]

/-- Settles O1: the opcode byte has the row of the instruction's mnemonic and mode, whose shape makes the instruction of
its operand bytes. -/
theorem decodeReadsEncodedInstruction : Obligations.DecodeReadsEncodedInstruction := by
  intro i rest hwf
  obtain ⟨op, hop, ⟨mnemonic, mode, cycles⟩, hrow, rfl, rfl⟩ := exists_defaultRow_of_wellFormed hwf
  obtain ⟨sh, l, h, hs, hi⟩ := exists_instrShape hop
  have hrule : OpcodeRow.hasRule ⟨i.mnemonic, i.mode, cycles⟩ = true :=
    OpcodeRow.hasRule_iff.2 (.inr (.inr (wellFormed_iff.1 hwf).2))
  have hoperands : operandBytes i = sh.operands l h := hi ▸ (fromRow_of_instrShape hs l h).operands
  calc decode (encode i ++ rest)
    _ = decodeWith [] (op :: (sh.operands l h ++ rest)) := by rw [encode_of_opcodeOf hop, hoperands]; rfl
    _ = .ok (sh.instr l h, rest) := decodeWith_of_rowShape hrow ((rowShape_of_hasRule op hrule).trans hs) l h rest
    _ = .ok (i, rest) := by rw [hi]

/-- Settles O2: the instruction of a row of the default table is well formed and has the row's opcode byte, and its
operand bytes are those decoded. -/
theorem decodedBytesEncodeBack : Obligations.DecodedBytesEncodeBack := by
  intro bytes rest i h
  obtain ⟨op, row, sh, lb, hb, hrow, hs, rfl, rfl⟩ := decodeWith_ok h
  obtain ⟨hop, hwf⟩ := opcodeOf_of_default_row hrow hs lb hb
  have hoperands := (fromRow_of_instrShape (instrShape_of_rowShape hs) lb hb).operands
  exact ⟨hwf, by rw [encode_of_opcodeOf hop, hoperands]; rfl⟩

/-- Settles O3: every default row has an instruction rule, and under any table a row with one decodes to an instruction
of its mnemonic and mode. -/
theorem everyOpcodeByteDecodes : Obligations.EveryOpcodeByteDecodes := by
  intro op b1 b2 rest
  refine ⟨?_, fun table => ⟨fun hnone => decodeWith_unknownOpcode hnone _, fun row hrow =>
    ⟨fun hmode => ?_, fun hkil hxaa hmode => ?_⟩⟩⟩
  · obtain ⟨row, hrow⟩ := Option.isSome_iff_exists.1 (optableRow_default op)
    have hrule := Machine.optableRow_default_hasRule hrow
    obtain ⟨sh, rest', -, hdec⟩ := exists_decodeWith_of_hasRule hrow hrule b1 b2 rest
    exact ⟨_, rest', hdec⟩
  · have hrule := OpcodeRow.hasRule_iff.2 (.inr (.inr hmode))
    obtain ⟨sh, rest', hs, hdec⟩ := exists_decodeWith_of_hasRule hrow hrule b1 b2 rest
    have hfrom := fromRow_of_instrShape hs b1 b2
    exact ⟨_, rest', hdec, hfrom.mnemonic_eq, hfrom.mode_eq hmode⟩
  · have hrule : ¬ row.hasRule = true := by simp [OpcodeRow.hasRule_iff, hkil, hxaa, hmode]
    exact decodeWith_noRule hrow (if_neg hrule) _

/-- Settles O4: the model's decoder run on each of the ten sequences. -/
theorem specWordsDecode : Obligations.SpecWordsDecode :=
  ⟨rfl, rfl, rfl, rfl, rfl, rfl, rfl, rfl, rfl, rfl⟩

end Sys2Proof

namespace Sys2Proof.Machine

/-! ### Where `UnknownOpcode` cannot arise -/

/-- Accesses that do not raise `UnknownOpcode`. -/
def Access.KnowsOpcode {α : Type} (r : Access α) : Prop := ∀ op pc calls, r ≠ .stop (.unknownOpcode op pc) calls

/-- An outcome other than the fault `UnknownOpcode`. -/
def KnowsOpcode (r : Result) : Prop := ∀ op pc calls, r ≠ .fault (.fatal (.unknownOpcode op pc) calls)

theorem Access.KnowsOpcode.ok {α : Type} {v : α} {s : State} : (Access.ok v s).KnowsOpcode := nofun

theorem Access.KnowsOpcode.bind {α β : Type} {r : Access α} {f : α → State → Access β} (hr : r.KnowsOpcode)
    (hf : ∀ v s, (f v s).KnowsOpcode) : (r.bind f).KnowsOpcode := by
  cases r with
  | ok v s => exact hf v s
  | stop c calls => exact fun op pc _ h => hr op pc calls (by injection h with h; rw [h])

theorem Access.KnowsOpcode.conclude {α : Type} {r : Access α} {f : α → State → State} (hr : r.KnowsOpcode) :
    Machine.KnowsOpcode (r.conclude f) := by
  cases r with
  | ok v s => exact nofun
  | stop c calls => exact fun op pc _ h => hr op pc calls (by injection h with h; injection h with h; rw [h])

theorem read8_knowsOpcode (a : Word) (s : State) : (read8 a s).KnowsOpcode := by
  unfold read8
  split <;> exact nofun

theorem write8_knowsOpcode (a : Word) (v : Byte) (s : State) : (write8 a v s).KnowsOpcode := by
  unfold write8
  split <;> exact nofun

theorem read16_knowsOpcode (a : Word) (s : State) : (read16 a s).KnowsOpcode :=
  (read8_knowsOpcode a s).bind fun _ _ => (read8_knowsOpcode _ _).bind fun _ _ => .ok

theorem loadOperand_knowsOpcode (m : Operand) (s : State) : (loadOperand m s).KnowsOpcode := by
  cases m with
  | imm b | acc => exact .ok
  | mem ad => exact read8_knowsOpcode _ s

theorem jumpTarget_knowsOpcode (j : JumpTarget) (s : State) : (jumpTarget j s).KnowsOpcode := by
  cases j with
  | abs w => exact .ok
  | ind w => exact (read8_knowsOpcode w s).bind fun _ _ => (read8_knowsOpcode _ _).bind fun _ _ => .ok

theorem readOperandBytes_knowsOpcode (sh : Shape) (s : State) : (readOperandBytes sh s).KnowsOpcode := by
  cases sh with
  | one i | unread f => exact .ok
  | two f => exact (read8_knowsOpcode _ s).bind fun _ _ => .ok
  | three f => exact (read16_knowsOpcode _ s).bind fun _ _ => .ok

theorem readClass_knowsOpcode {m : Operand} {use : Byte → State → State} {s : State} :
    KnowsOpcode (readClass m use s) :=
  (loadOperand_knowsOpcode m s).conclude

theorem storeClass_knowsOpcode {ad : Addressing} {v : Byte} {s : State} : KnowsOpcode (storeClass ad v s) :=
  (write8_knowsOpcode _ v s).conclude

theorem modifyClass_knowsOpcode {ad : Addressing} {g : Byte → Byte} {use : Byte → State → State} {s : State} :
    KnowsOpcode (modifyClass ad g use s) :=
  ((read8_knowsOpcode _ s).bind fun _ _ => (write8_knowsOpcode _ _ _).bind fun _ _ => .ok).conclude

theorem KnowsOpcode.unstableClass {name : String} {r : Result} {s : State} (h : KnowsOpcode r) :
    KnowsOpcode (unstableClass name r s) := by
  cases hu : s.cfg.unstableStores with
  | asSpecified => rwa [unstableClass_asSpecified hu]
  | refuse => rw [unstableClass_refuse hu]; exact nofun

/-- No instruction raises `UnknownOpcode`: by access class, and `KIL` and `XAA` raise another condition (R301, R304). -/
theorem exec_knowsOpcode (i : Instr) (s : State) : KnowsOpcode (exec i s) := by
  cases i with
  | lda m | ldx m | ldy m | adc m | sbc m | and m | ora m | eor m | cmp m | cpx m | cpy m | bit m | lax m =>
    exact readClass_knowsOpcode
  | sta m | stx m | sty m | sax m => exact storeClass_knowsOpcode
  | inc m | dec m | dcp m | isb m | slo m | rla m | sre m | rra m => exact modifyClass_knowsOpcode
  | asl m | lsr m | rol m | ror m =>
    cases m with
    | imm b | acc => exact nofun
    | mem ad => exact modifyClass_knowsOpcode
  | axa m | sxa w | sya w | xas w => exact storeClass_knowsOpcode.unstableClass
  | lar w => exact readClass_knowsOpcode.unstableClass
  | jmp j => exact (jumpTarget_knowsOpcode j s).conclude
  | brk =>
    show KnowsOpcode (execBrk s)
    unfold execBrk
    split <;> exact nofun
  | kil op | xaa bytes => exact nofun
  | tax | tay | tsx | txa | tya | txs | inx | iny | dex | dey | bcc off | bcs off | beq off | bne off | bmi off
  | bpl off | bvc off | bvs off | jsr w | rts | rti | pha | pla | php | plp | clc | sec | cld | sed | cli | sei | clv
  | nop | dop op m | top op m | nopStar op | sbcStar b | aac op b | arr b | asr b | atx b | axs b =>
    exact nofun

/-- No instruction raises `UnknownOpcode`, so a step that faults with it has the fault from its fetch. -/
theorem fetch_stop_of_step_unknownOpcode {s : State} {op : Byte} {pc : Word} {calls : List PpuCall}
    (h : step s = .fault (.fatal (.unknownOpcode op pc) calls)) : fetch s = .stop (.unknownOpcode op pc) calls := by
  by_cases hr : s.run = .running
  · rw [step_of_running hr] at h
    cases hf : fetch s with
    | stop c calls' => rw [hf] at h; cases h; rfl
    | ok fetched u =>
      rw [hf] at h
      cases fetched with
      | instr i n => exact absurd (accumulate_fault.1 h) (exec_knowsOpcode i u op pc calls)
      | noRule op' => cases h
  · rw [step_of_not_running hr] at h
    cases h

/-- A fetch raises `UnknownOpcode` only for the byte at `pc`, where the table has no row for it. -/
theorem fetch_stop_unknownOpcode {s : State} {op : Byte} {pc : Word} {calls : List PpuCall}
    (h : fetch s = .stop (.unknownOpcode op pc) calls) :
    pc = s.pc ∧ (∃ u, read8 s.pc s = .ok op u) ∧ optableRow s.cfg.optable op = none := by
  obtain hstop | ⟨op', u, hread, -⟩ := Access.bind_stop.1 h
  · exact absurd hstop (read8_knowsOpcode _ _ _ _ _)
  · rw [fetch_of_read8 hread] at h
    cases hrow : optableRow s.cfg.optable op' with
    | none =>
      rw [hrow] at h
      cases h
      exact ⟨rfl, ⟨u, hread⟩, hrow⟩
    | some row =>
      cases hs : rowShape op' row with
      | none => simp [hrow, hs] at h
      | some sh =>
        simp only [hrow, hs] at h
        exact absurd h ((readOperandBytes_knowsOpcode sh u).bind (fun _ _ => .ok) _ _ _)

/-- Settles O7: the fault is the fetch's, and the default table has a row for every byte. -/
theorem unknownOpcodeNeedsAbsentRow : Obligations.UnknownOpcodeNeedsAbsentRow := by
  intro s op pc calls h
  obtain ⟨hpc, hread, hrow⟩ := fetch_stop_unknownOpcode (fetch_stop_of_step_unknownOpcode h)
  refine ⟨hpc, hread, hrow, fun hdefault => ?_⟩
  have hsome := optableRow_default op
  rw [← hdefault, hrow] at hsome
  cases hsome

end Sys2Proof.Machine
end

section
/-! PROOFS. Where an instruction that answers leaves `pc` and the run status (40_step_and_addressing.md R121,
60_exceptions.md R310), by one case split over the instructions. -/

namespace Sys2Proof.Machine

/-- What `i` may do to the control state: `pc` goes by the common advance unless `i` moves it, and the run status is as
before unless `i` is a `BRK` in halt mode. -/
structure ControlFrame (i : Instr) (s t : State) : Prop where
  pc  : movesPc i = false → t.pc = s.pc + BitVec.ofNat 16 i.mode.size
  run : t.run = s.run ∨ i = .brk ∧ s.cfg.brkMode = .halt ∧ t.run = .halted

/-- The frame of the common advance (R121). -/
theorem ControlFrame.advanced {i : Instr} {s t : State} (hpc : t.pc = s.pc + BitVec.ofNat 16 i.mode.size)
    (hrun : t.run = s.run) : ControlFrame i s t :=
  ⟨fun _ => hpc, .inl hrun⟩

/-- The frame of an instruction that moves `pc` itself. -/
theorem ControlFrame.moved {i : Instr} {s t : State} (hm : movesPc i = true) (hrun : t.run = s.run) :
    ControlFrame i s t :=
  ⟨by simp [hm], .inl hrun⟩

/-- An instruction that answers advances `pc` by its size unless it moves it, and ends the run only as a `BRK`. -/
theorem exec_controlFrame {i : Instr} {s t : State} (h : exec i s = .next t) : ControlFrame i s t := by
  cases i with
  | lda m | ldx m | ldy m | adc m | sbc m | and m | ora m | eor m | cmp m | cpx m | cpy m | bit m | lax m =>
    obtain ⟨v, calls, rfl⟩ := readClass_effect h
    exact .advanced rfl rfl
  | lar w =>
    obtain ⟨v, calls, rfl⟩ := readClass_effect (unstableClass_next h)
    exact .advanced rfl rfl
  | sta m | stx m | sty m | sax m =>
    obtain ⟨mem, calls, -, rfl⟩ := storeClass_effect h
    exact .advanced rfl rfl
  | axa m | sxa w | sya w | xas w =>
    obtain ⟨mem, calls, -, rfl⟩ := storeClass_effect (unstableClass_next h)
    exact .advanced rfl rfl
  | inc m | dec m | dcp m | isb m | slo m | rla m | sre m | rra m =>
    obtain ⟨v, mem, calls, -, rfl⟩ := modifyClass_effect h
    exact .advanced rfl rfl
  | asl m | lsr m | rol m | ror m =>
    cases m with
    | imm b | acc => cases h; exact .advanced rfl rfl
    | mem ad =>
      obtain ⟨v, mem, calls, -, rfl⟩ := modifyClass_effect h
      exact .advanced rfl rfl
  | tax | tay | tsx | txa | tya | txs | inx | iny | dex | dey | pha | pla | php | plp | clc | sec | cld | sed | cli | sei
  | clv | nop | nopStar op | dop op m | top op m | sbcStar b | aac op b | arr b | asr b | atx b | axs b =>
    cases h
    exact .advanced rfl rfl
  | jsr w | rts | rti =>
    cases h
    exact .moved rfl rfl
  | brk =>
    rcases execBrk_effect h with ⟨hb, rfl⟩ | ⟨-, rfl⟩
    · exact ⟨nofun, .inr ⟨rfl, hb, rfl⟩⟩
    · exact .moved rfl rfl
  | bcc off | bcs off | beq off | bne off | bmi off | bpl off | bvc off | bvs off =>
    obtain ⟨w, rfl⟩ := branchClass_effect h
    exact .moved rfl rfl
  | jmp j =>
    obtain ⟨w, calls, rfl⟩ := execJmp_effect h
    exact .moved rfl rfl
  | kil op | xaa bytes => cases h

end Sys2Proof.Machine
end

section
/-! PROOFS. Where each access class faults (40_step_and_addressing.md R136), and the class each instruction with a data
operand runs as. -/

namespace Sys2Proof.Machine

/-! ### The faults of a class -/

/-- An instruction whose accesses stop faults with the condition they raise. -/
theorem Access.conclude_stop {α : Type} {r : Access α} {f : α → State → State} {c : FatalCondition}
    {calls : List PpuCall} (h : r = .stop c calls) : r.conclude f = .fault (.fatal c calls) := by
  subst h; rfl

section
variable {ad : Addressing} {s : State}

theorem readClass_unmapped {use : Byte → State → State} (h : InUnmapped (operandAddress ad s)) :
    readClass (.mem ad) use s = .fault (.fatal (.unmappedAddress (operandAddress ad s) .read) s.ppuCalls) :=
  Access.conclude_stop (read8_unmapped h)

theorem storeClass_unmapped {v : Byte} (h : InUnmapped (operandAddress ad s)) :
    storeClass ad v s = .fault (.fatal (.unmappedAddress (operandAddress ad s) .write) s.ppuCalls) :=
  Access.conclude_stop (write8_unmapped v h)

theorem storeClass_prg {v : Byte} (h : InPrg (operandAddress ad s)) :
    storeClass ad v s = .fault (.fatal (.prgRomWrite (operandAddress ad s)) s.ppuCalls) :=
  Access.conclude_stop (write8_prg v h)

variable {g : Byte → Byte} {use : Byte → State → State}

theorem modifyClass_unmapped (h : InUnmapped (operandAddress ad s)) :
    modifyClass ad g use s = .fault (.fatal (.unmappedAddress (operandAddress ad s) .read) s.ppuCalls) :=
  Access.conclude_stop (Access.bind_stop.2 (.inl (read8_unmapped h)))

/-- A read-modify-write of PRG reads its byte, which calls no hook, and faults at the write. -/
theorem modifyClass_prg (h : InPrg (operandAddress ad s)) :
    modifyClass ad g use s = .fault (.fatal (.prgRomWrite (operandAddress ad s)) s.ppuCalls) :=
  Access.conclude_stop
    (Access.bind_stop.2 (.inr ⟨_, s, read8_prg h, Access.bind_stop.2 (.inl (write8_prg _ h))⟩))

end

/-! ### The class of an instruction -/

section
variable {i : Instr} {s : State} (hu : isUnstable i = true → s.cfg.unstableStores = .asSpecified)
include hu

theorem exec_eq_readClass {ad : Addressing} (h : readOperand i = some (.mem ad)) :
    ∃ use, exec i s = readClass (.mem ad) use s := by
  cases i with
  | lda m | ldx m | ldy m | adc m | sbc m | and m | ora m | eor m | cmp m | cpx m | cpy m | bit m | lax m =>
    cases h
    exact ⟨_, rfl⟩
  | lar w =>
    cases h
    exact ⟨_, unstableClass_asSpecified (hu rfl)⟩
  | _ => cases h

/-- `XAS` stores from a state whose `SP` is already written; the operand address and the hook calls are as before. -/
theorem exec_eq_storeClass {ad : Addressing} (h : storeOperand i = some ad) :
    ∃ v t, exec i s = storeClass ad v t ∧ operandAddress ad t = operandAddress ad s ∧ t.ppuCalls = s.ppuCalls := by
  cases i with
  | sta m | stx m | sty m | sax m =>
    cases h
    exact ⟨_, s, rfl, rfl, rfl⟩
  | axa m | sxa w | sya w =>
    cases h
    exact ⟨_, s, unstableClass_asSpecified (hu rfl), rfl, rfl⟩
  | xas w =>
    cases h
    exact ⟨_, _, unstableClass_asSpecified (hu rfl), rfl, rfl⟩
  | _ => cases h

end

theorem exec_eq_modifyClass {i : Instr} {ad : Addressing} (h : modifyOperand i = some ad) (s : State) :
    ∃ g use, exec i s = modifyClass ad g use s := by
  cases i with
  | asl m | lsr m | rol m | ror m =>
    cases m with
    | imm b | acc => cases h
    | mem ad =>
      cases h
      exact ⟨_, _, rfl⟩
  | inc m | dec m | dcp m | isb m | slo m | rla m | sre m | rra m =>
    cases h
    exact ⟨_, _, rfl⟩
  | _ => cases h

end Sys2Proof.Machine
end

section
/-! PROOFS. The statements of 40_step_and_addressing.md. -/

namespace Sys2Proof.Machine

/-! ### Fetching through the bus -/

theorem readOperandBytes_two {f : Byte → Instr} {u v : State} {b : Byte} (h : read8 (u.pc + 1) u = .ok b v) :
    readOperandBytes (.two f) u = .ok (f b) v :=
  Access.bind_ok.2 ⟨b, v, h, rfl⟩

theorem readOperandBytes_three {f : Word → Instr} {u v w : State} {l h : Byte} (hl : read8 (u.pc + 1) u = .ok l v)
    (hh : read8 (u.pc + 2) v = .ok h w) : readOperandBytes (.three f) u = .ok (f (wordOf h l)) w := by
  have hnext : u.pc + 2 = u.pc + 1 + 1 := (add_assoc u.pc 1 1).symm
  rw [hnext] at hh
  exact Access.bind_ok.2 ⟨wordOf h l, w, read16_of_read8 hl hh, rfl⟩

/-- Operand bytes stored in memory are read as the instruction they make, with no effect. -/
theorem readOperandBytes_of_storedByte {sh : Shape} {s : State} {l h : Byte}
    (hstored : ∀ (n : Nat) (hn : n < (sh.operands l h).length),
      storedByte s (s.pc + 1 + BitVec.ofNat 16 n) = some (sh.operands l h)[n]) :
    readOperandBytes sh s = .ok (sh.instr l h) s := by
  cases sh with
  | one i => rfl
  | two f => exact readOperandBytes_two (read8_of_storedByte (by simpa [Shape.operands] using hstored 0 Nat.one_pos))
  | unread f =>
    have hb : storedByte s (s.pc + 1) = some l := by simpa [Shape.operands] using hstored 0 Nat.one_pos
    have hskip : skippedByte s (s.pc + 1) = l := by rw [skippedByte, hb, Option.getD_some]
    rw [readOperandBytes, hskip, Shape.instr]
  | three f =>
    have hl : storedByte s (s.pc + 1) = some l := by simpa [Shape.operands] using hstored 0 Nat.two_pos
    have hh : storedByte s (s.pc + 2) = some h := by
      have hh' := hstored 1 Nat.one_lt_two
      rwa [add_assoc] at hh'
    exact readOperandBytes_three (read8_of_storedByte hl) (read8_of_storedByte hh)

section
variable {s u : State} {op : Byte} {row : OpcodeRow} (hr : s.run = .running) (hread : read8 s.pc s = .ok op u)
  (hrow : optableRow s.cfg.optable op = some row)
include hr hread hrow

/-- A running machine steps as the instruction its row makes of the operand bytes read. -/
theorem stepsAs_of_readOperandBytes {sh : Shape} {i : Instr} {w : State} (hs : rowShape op row = some sh)
    (h : readOperandBytes sh u = .ok i w) : StepsAs s i w := by
  refine stepsAs_of_fetch (n := row.cycles) hr ?_
  rw [fetch_of_row hread hrow hs]
  exact Access.bind_ok.2 ⟨i, w, h, rfl⟩

/-- A row that reads no operand byte makes its instruction of the byte it passes over, if it has one at all. -/
theorem stepsAs_of_no_operand (hrule : row.hasRule = true) (hn : operandBytesRead row = 0) :
    ∃ i b rest, decodeWith s.cfg.optable [op, b] = .ok (i, rest) ∧ StepsAs s i u := by
  obtain ⟨hzero, -⟩ := rowShape_reads (op := op) hrule
  obtain ⟨i, hs⟩ | ⟨f, hs⟩ := hzero hn
  · exact ⟨i, 0, [0], decodeWith_of_rowShape hrow hs 0 0 [0], stepsAs_of_readOperandBytes hr hread hrow hs rfl⟩
  · exact ⟨f (skippedByte u (u.pc + 1)), _, [], decodeWith_of_rowShape hrow hs _ 0 [],
      stepsAs_of_readOperandBytes hr hread hrow hs rfl⟩

theorem stepsAs_of_one_operand (hrule : row.hasRule = true) (hn : operandBytesRead row = 1) {b : Byte} {v : State}
    (hb : read8 (s.pc + 1) u = .ok b v) : ∃ i, decodeWith s.cfg.optable [op, b] = .ok (i, []) ∧ StepsAs s i v := by
  obtain ⟨-, hone, -⟩ := rowShape_reads (op := op) hrule
  obtain ⟨f, hs⟩ := hone hn
  rw [← read8_pc_of_ok hread] at hb
  exact ⟨f b, decodeWith_of_rowShape hrow hs b 0 [],
    stepsAs_of_readOperandBytes hr hread hrow hs (readOperandBytes_two hb)⟩

theorem stepsAs_of_two_operands (hrule : row.hasRule = true) (hn : operandBytesRead row = 2) {l h : Byte} {v w : State}
    (hl : read8 (s.pc + 1) u = .ok l v) (hh : read8 (s.pc + 2) v = .ok h w) :
    ∃ i, decodeWith s.cfg.optable [op, l, h] = .ok (i, []) ∧ StepsAs s i w := by
  obtain ⟨-, -, htwo, -⟩ := rowShape_reads (op := op) hrule
  obtain ⟨f, hs⟩ := htwo hn
  rw [← read8_pc_of_ok hread] at hl hh
  exact ⟨f (wordOf h l), decodeWith_of_rowShape hrow hs l h [],
    stepsAs_of_readOperandBytes hr hread hrow hs (readOperandBytes_three hl hh)⟩

end

/-- Settles O5: the opcode byte and the operand bytes are read where they are stored, with no effect on the state. -/
theorem stepRunsDecodedInstruction : Obligations.StepRunsDecodedInstruction := by
  intro s bytes i hr hstored hdec
  obtain ⟨op, row, sh, l, h, hrow, hs, rfl, rfl⟩ := decodeWith_ok hdec
  rw [List.append_nil] at hstored
  have hop : storedByte s s.pc = some op := by simpa using hstored 0 (Nat.succ_pos _)
  refine stepsAs_of_readOperandBytes hr (read8_of_storedByte hop) hrow hs (readOperandBytes_of_storedByte ?_)
  intro n hn
  have hnext : s.pc + 1 + BitVec.ofNat 16 n = s.pc + BitVec.ofNat 16 (n + 1) := by
    rw [add_assoc, BitVec.add_comm 1, BitVec.ofNat_add]; rfl
  rw [hnext]
  exact hstored (n + 1) (Nat.succ_lt_succ hn)

/-! ### `BRK` -/

theorem StepsAs.next {s u t : State} {i : Instr} (h : StepsAs s i u) (ht : exec i u = .next t) :
    ∃ c, step s = .next { t with cycles := c } :=
  h.1 t ht

theorem exec_brk_halt {s : State} (h : s.cfg.brkMode = .halt) : exec .brk s = .next (haltRun s) := by
  show execBrk s = _
  simp [execBrk, h]

theorem exec_brk_vectored {s : State} (h : s.cfg.brkMode = .vectored) : exec .brk s = .next (takeBreak s) := by
  show execBrk s = _
  simp [execBrk, h]

/-- A push reaches no vector: the stack is RAM, the vectors are PRG. -/
theorem vectorAt_push8 (v : Byte) (s : State) (a : Word) : vectorAt (push8 v s) a = vectorAt s a := by
  have hget : ∀ b : Word, (push8 v s).mem.get (prgCell s.cfg.prgSize b) = s.mem.get (prgCell s.cfg.prgSize b) := by
    intro b
    have hstack := stackCell_bound s.sp
    have hprg := prgCell_bound s.cfg.prgSize b
    exact Memory.get_set_ne _ v (by omega)
  simp only [vectorAt, push8_cfg, hget]

/-- The vectored `BRK` goes to the vector as it stood before the pushes (R222, R311). -/
theorem takeBreak_pc (s : State) : (takeBreak s).pc = vectorAt s 0xFFFE := by
  show vectorAt (push8 _ (push8 _ (push8 _ s))) 0xFFFE = _
  rw [vectorAt_push8, vectorAt_push8, vectorAt_push8]

/-- Code in the PPU window (U21): every byte there reads `0x00` through the null hook, at one recorded call. -/
theorem stepsAs_brk_of_ppu {s : State} {row : OpcodeRow} (hr : s.run = .running) (hpc : InPpu s.pc)
    (hnull : s.cfg.ppu = .null) (hrow : optableRow s.cfg.optable 0x00 = some row) (hm : row.mnemonic = .brk)
    (hmode : row.mode = .implied) : StepsAs s .brk (logPpu s (.read (ppuReg s.pc))) := by
  obtain ⟨mnemonic, mode, cycles⟩ := row
  subst hm hmode
  have hread := read8_ppu (s := s) hpc
  rw [ppuValue_null hnull] at hread
  exact stepsAs_of_readOperandBytes hr hread hrow (sh := .one .brk) rfl rfl

/-- Settles O60: a row steps as its instruction in the state its reads leave, and in the PPU window that is `BRK`. -/
theorem stepReadsInstructionThroughTheBus : Obligations.StepReadsInstructionThroughTheBus := by
  intro s hr
  refine ⟨fun op u row hread hrow hrule => ⟨?_, ?_, ?_⟩, fun row hpc hnull hrow hm hmode => ?_⟩
  · exact stepsAs_of_no_operand hr hread hrow hrule
  · exact fun hn _ _ => stepsAs_of_one_operand hr hread hrow hrule hn
  · exact fun hn _ _ _ _ => stepsAs_of_two_operands hr hread hrow hrule hn
  · have hsteps := stepsAs_brk_of_ppu hr hpc hnull hrow hm hmode
    refine ⟨hsteps, fun hhalt => hsteps.next (exec_brk_halt hhalt), fun hvec => ?_⟩
    obtain ⟨c, hc⟩ := hsteps.next (exec_brk_vectored hvec)
    have hvector : read16 0xFFFE s = .ok (vectorAt s 0xFFFE) s := read16_prg s (by decide) (by decide)
    refine ⟨_, hc, hr, ?_, ?_, rfl⟩
    · show s.sp - 1 - 1 - 1 = s.sp - 3
      rw [sub_sub, sub_sub]
      rfl
    · rw [hvector]
      exact congrArg (Access.ok · s) (takeBreak_pc _).symm

/-! ### The run status and `pc` -/

/-- Settles O9: the fetch keeps the run status, and of the instructions only `BRK` in halt mode does not. -/
theorem onlyBrkEndsARun : Obligations.OnlyBrkEndsARun := by
  intro s t h
  obtain ⟨hr, i, n, u, v, hf, hv, rfl⟩ := step_next h
  obtain ⟨-, hrun⟩ := exec_controlFrame hv
  have hu := fetch_ok hf
  have hrun_u : u.run = s.run := by rw [hu]
  have hcfg_u : u.cfg = s.cfg := by rw [hu]
  rw [hrun_u, hcfg_u, hr] at hrun
  refine hrun.imp_right ?_
  rintro ⟨rfl, hb, hv⟩
  exact ⟨hv, hb, n, u, hf⟩

/-- Settles O20: the common advance in the frame of an instruction that moves no `pc` and so is no `BRK`. -/
theorem pcAdvancesByTheSize : Obligations.PcAdvancesByTheSize := by
  intro i s t h hm
  obtain ⟨hpc, hrun | ⟨rfl, -, -⟩⟩ := exec_controlFrame h
  · exact ⟨hpc hm, hrun⟩
  · cases hm

/-! ### The operand address -/

/-- A byte of the zero page is a bus read that neither faults nor has an effect (R52, R134). -/
theorem read8_zeroPage (b : Byte) (s : State) : read8 (zext16 b) s = .ok (zeroPageByte s b) s := by
  have hb := b.isLt
  have hn : (zext16 b).toNat = b.toNat := BitVec.toNat_setWidth_of_le (by decide)
  rw [read8_ram (by rw [InRam, hn]; omega), hn, Nat.mod_eq_of_lt (by omega)]
  rfl

/-- Settles O28: both pointer bytes are bytes of the zero page. -/
theorem operandAddressOfPointerModes : Obligations.OperandAddressOfPointerModes := by
  intro s b
  refine ⟨⟨_, _, read8_zeroPage (b + s.x) s, read8_zeroPage (b + s.x + 1) s, rfl⟩, rfl, ?_, rfl⟩
  exact ⟨_, _, read8_zeroPage b s, read8_zeroPage (b + 1) s, rfl, rfl⟩

/-- The index of a zero-page operand wraps within the page (R128, R129). -/
theorem zext16_add_toNat (b r : Byte) : (zext16 (b + r)).toNat = (b.toNat + r.toNat) % 256 := by
  rw [zext16, BitVec.toNat_setWidth_of_le (by decide), BitVec.toNat_add]

/-- The index of an absolute operand wraps at the top of the space (R131, R132). -/
theorem add_zext16_toNat (w : Word) (r : Byte) : (w + zext16 r).toNat = (w.toNat + r.toNat) % 65536 := by
  rw [zext16, BitVec.toNat_add, BitVec.toNat_setWidth_of_le (by decide)]

/-- Settles O27: the two index sums, each with its wrap. -/
theorem operandAddressOfDirectModes : Obligations.OperandAddressOfDirectModes := by
  intro s b w
  exact ⟨rfl, rfl, zext16_add_toNat b s.x, rfl, zext16_add_toNat b s.y, rfl, rfl, rfl, rfl, add_zext16_toNat w s.x, rfl,
    rfl, add_zext16_toNat w s.y, rfl⟩

/-- Settles O29: the three operand forms of `loadOperand`. -/
theorem operandValue : Obligations.OperandValue :=
  fun _ _ _ => ⟨rfl, rfl, rfl⟩

/-! ### Data faults -/

/-- Settles O59: each instruction with a data operand in memory runs as its class, and the classes fault so. -/
theorem dataAccessFaults : Obligations.DataAccessFaults := by
  intro i ad s hu
  refine ⟨fun hop ha => ?_, fun hop ha => ?_, fun hop ha => ?_⟩
  · obtain hread | hmodify := hop
    · obtain ⟨use, he⟩ := exec_eq_readClass hu hread
      exact he.trans (readClass_unmapped ha)
    · obtain ⟨g, use, he⟩ := exec_eq_modifyClass hmodify s
      exact he.trans (modifyClass_unmapped ha)
  · obtain ⟨v, t, he, haddr, hcalls⟩ := exec_eq_storeClass hu hop
    rw [← haddr] at ha ⊢
    rw [he, storeClass_unmapped ha, hcalls]
  · obtain hstore | hmodify := hop
    · obtain ⟨v, t, he, haddr, hcalls⟩ := exec_eq_storeClass hu hstore
      rw [← haddr] at ha ⊢
      rw [he, storeClass_prg ha, hcalls]
    · obtain ⟨g, use, he⟩ := exec_eq_modifyClass hmodify s
      exact he.trans (modifyClass_prg ha)

/-! ### Branches -/

/-- A branch on a clear flag goes to its target exactly when the flag is not set. -/
theorem branchClass_not_next (flag : Bool) (off : Byte) (s : State) :
    branchClass (!flag) off s = .next { s with pc := if flag then s.pc + 2 else branchTarget s.pc off } := by
  rw [branchClass_next]
  cases flag <;> rfl

/-- Settles O42: four branches on a set flag, four on a clear one. -/
theorem branchesFollowTheirFlag : Obligations.BranchesFollowTheirFlag := by
  intro off s
  have onSet := fun flag => branchClass_next flag off s
  have onClear := fun flag => branchClass_not_next flag off s
  exact ⟨⟨rfl, onClear (flagC s.p)⟩, ⟨rfl, onSet (flagC s.p)⟩, ⟨rfl, onSet (flagZ s.p)⟩, ⟨rfl, onClear (flagZ s.p)⟩,
    ⟨rfl, onSet (flagN s.p)⟩, ⟨rfl, onClear (flagN s.p)⟩, ⟨rfl, onClear (flagV s.p)⟩, ⟨rfl, onSet (flagV s.p)⟩⟩

end Sys2Proof.Machine
end

section
/-! PROOFS. The statements of 41_load_store_transfer.md. -/

namespace Sys2Proof.Machine

/-! ### Loads and stores -/

/-- Settles O34: the three loads are read class, and what each makes of the byte read moves no `pc`. -/
theorem loadsSetTheirRegister : Obligations.LoadsSetTheirRegister := by
  intro m s
  refine ⟨?lda, ?ldx, ?ldy⟩
  case lda => exact readsInto_of_readClass _ rfl (fun _ _ => rfl) (fun _ _ => rfl)
  case ldx => exact readsInto_of_readClass _ rfl (fun _ _ => rfl) (fun _ _ => rfl)
  case ldy => exact readsInto_of_readClass _ rfl (fun _ _ => rfl) (fun _ _ => rfl)

/-- A store from the state as it stands changes no register and no flag. -/
theorem storesTo_self {i : Instr} {ad : Addressing} {s : State} {v : Byte} (h : exec i s = storeClass ad v s) :
    StoresTo i ad s s v :=
  storesTo_of_storeClass h rfl rfl rfl rfl

/-- Settles O35: the four stores are store class, each from the state as it stands. -/
theorem storesWriteTheirRegister : Obligations.StoresWriteTheirRegister := by
  intro ad s
  refine ⟨?sta, ?stx, ?sty, ?sax⟩
  case sta => exact storesTo_self rfl
  case stx => exact storesTo_self rfl
  case sty => exact storesTo_self rfl
  case sax => exact storesTo_self rfl

/-! ### Transfers -/

/-- The implied class completes at the next byte (R121, R136). -/
theorem leaves_of_impliedClass {i : Instr} {s t : State} (h : exec i s = impliedClass t) :
    Leaves i s { t with pc := t.pc + 1 } :=
  h

/-- Settles O36: each transfer is its one opcode byte and an instruction of the implied class. -/
theorem transfersCopyRegisters : Obligations.TransfersCopyRegisters := by
  intro s
  refine ⟨⟨rfl, ?tax⟩, ⟨rfl, ?tay⟩, ⟨rfl, ?tsx⟩, ⟨rfl, ?txa⟩, ⟨rfl, ?tya⟩, ⟨rfl, ?txs⟩⟩
  case tax => exact leaves_of_impliedClass (t := { s with x := s.a, p := setNZ s.p s.a }) rfl
  case tay => exact leaves_of_impliedClass (t := { s with y := s.a, p := setNZ s.p s.a }) rfl
  case tsx => exact leaves_of_impliedClass (t := { s with x := s.sp, p := setNZ s.p s.sp }) rfl
  case txa => exact leaves_of_impliedClass (t := { s with a := s.x, p := setNZ s.p s.x }) rfl
  case tya => exact leaves_of_impliedClass (t := { s with a := s.y, p := setNZ s.p s.y }) rfl
  case txs => exact leaves_of_impliedClass (t := { s with sp := s.x }) rfl

end Sys2Proof.Machine
end

section
/-! PROOFS. The statements of 42_arithmetic_logic.md. -/

namespace Sys2Proof.Machine

/-! ### The sum and its overflow -/

theorem carryNat_le_one (c : Bool) : carryNat c ≤ 1 := by
  cases c <;> decide

theorem addSum_lt (a m : Byte) (c : Bool) : addSum a m c < 512 := by
  have ha := a.isLt
  have hm := m.isLt
  have hc := carryNat_le_one c
  rw [addSum]
  omega

theorem addResult_toNat (a m : Byte) (c : Bool) : (addResult a m c).toNat = addSum a m c % 256 :=
  BitVec.toNat_ofNat _ _

/-- Result and carry together are the sum (R170). -/
theorem addResult_add_addCarry (a m : Byte) (c : Bool) :
    (addResult a m c).toNat + (if addCarry a m c then 256 else 0) = addSum a m c := by
  have hlt := addSum_lt a m c
  rw [addResult_toNat]
  by_cases h : 0xFF < addSum a m c
  · rw [addCarry, decide_eq_true h, if_pos rfl]
    omega
  · rw [addCarry, decide_eq_false h, if_neg Bool.false_ne_true]
    omega

theorem and_0x80_ne_zero (v : Byte) : ((v &&& 0x80) != 0) = v.msb := by
  have h : v &&& 0x80 = if v.getLsbD 7 then 0x80 else 0 := BitVec.and_twoPow v 7
  rw [h, BitVec.msb_eq_getLsbD_last]
  cases v.getLsbD 7 <;> rfl

/-- An addition overflows where its result has the sign of neither operand. -/
theorem addOverflow_eq_msb (a m : Byte) (c : Bool) :
    addOverflow a m c = ((a.msb ^^ (addResult a m c).msb) && (m.msb ^^ (addResult a m c).msb)) := by
  rw [addOverflow, and_0x80_ne_zero, BitVec.msb_and, BitVec.msb_xor, BitVec.msb_xor]

/-- `V` says that the signed sum does not fit in a byte (R170, R179). -/
theorem addOverflow_iff (a m : Byte) (c : Bool) :
    addOverflow a m c = true ↔
      ¬ (-128 ≤ a.toInt + m.toInt + carryNat c ∧ a.toInt + m.toInt + carryNat c ≤ 127) := by
  have ha := a.isLt
  have hm := m.isLt
  have hr := addResult_toNat a m c
  have hc := carryNat_le_one c
  rw [addSum] at hr
  rw [addOverflow_eq_msb]
  simp only [BitVec.toInt_eq_toNat_cond, BitVec.msb_eq_decide, Bool.and_eq_true, bne_iff_ne, ne_eq, decide_eq_decide]
  omega

/-- Settles O31: result and carry, the overflow, and the bits `setNZ` writes and the addition leaves. -/
theorem additionIsExact : Obligations.AdditionIsExact := by
  intro p a m c
  have hC : (addStatus p a m c).getLsbD 0 = addCarry a m c := flagC_addStatus p a m c
  have hV : (addStatus p a m c).getLsbD 6 = addOverflow a m c := flagV_addStatus p a m c
  have hZ : (addStatus p a m c).getLsbD 1 = (addResult a m c == 0) := flagZ_addStatus p a m c
  rw [hC, hV, hZ, beq_iff_eq]
  refine ⟨addResult_add_addCarry a m c, ?_, Iff.rfl, flagN_addStatus p a m c, fun i h2 h5 => ?_⟩
  · rw [addOverflow_iff]
    cases c <;> rfl
  · obtain rfl | rfl | rfl | rfl : i = 2 ∨ i = 3 ∨ i = 4 ∨ i = 5 := by omega
    · exact flagI_addStatus p a m c
    · exact flagD_addStatus p a m c
    · exact flagB_addStatus p a m c
    · exact flag5_addStatus p a m c

/-! ### Subtraction undoes addition -/

/-- The result of an addition is the wrapped sum of its three summands. -/
theorem addResult_eq_add (a m : Byte) (c : Bool) : addResult a m c = a + m + if c then 1 else 0 := by
  rw [addResult, addSum, BitVec.ofNat_add, BitVec.ofNat_add, BitVec.ofNat_toNat, BitVec.ofNat_toNat, BitVec.setWidth_eq,
    BitVec.setWidth_eq]
  cases c <;> rfl

/-- The operand a subtraction adds is one less than the negation (R171). -/
theorem subOperand_eq_neg_sub_one (b : Byte) : subOperand b = -b - 1 :=
  BitVec.xor_allOnes.trans (BitVec.not_eq_neg_add b)

/-- An addition and a subtraction of the same byte leave the two carries and take one off. -/
theorem addResult_subOperand (a b : Byte) (c d : Bool) :
    addResult (addResult a b c) (subOperand b) d = a + (if c then 1 else 0) + (if d then 1 else 0) - 1 := by
  rw [addResult_eq_add, addResult_eq_add, subOperand_eq_neg_sub_one]
  ring

/-- Settles O32: with opposite carries just one of the two is 1, and makes up for the one taken off. -/
theorem subtractUndoesAdd : Obligations.SubtractUndoesAdd := by
  refine fun a b c => ⟨?_, addResult_subOperand a b c c⟩
  rw [addResult_subOperand]
  cases c <;> simp

/-! ### Decimal mode -/

/-- The state with `D` at a given value. -/
def State.withD (d : Bool) (s : State) : State := { s with p := putD s.p d }

/-- A status byte is its eight flags (R26). -/
theorem status_eq_of_flags {p q : Byte} (hC : flagC p = flagC q) (hZ : flagZ p = flagZ q) (hI : flagI p = flagI q)
    (hD : flagD p = flagD q) (hB : flagB p = flagB q) (h5 : flag5 p = flag5 q) (hV : flagV p = flagV q)
    (hN : flagN p = flagN q) : p = q := by
  refine BitVec.eq_of_getLsbD_eq fun i hi => ?_
  match i, hi with
  | 0, _ => exact hC
  | 1, _ => exact hZ
  | 2, _ => exact hI
  | 3, _ => exact hD
  | 4, _ => exact hB
  | 5, _ => exact h5
  | 6, _ => exact hV
  | 7, _ => exact hN

/-- An addition neither reads nor writes `D` (R180). -/
theorem addStatus_putD (p a m : Byte) (c d : Bool) : addStatus (putD p d) a m c = putD (addStatus p a m c) d := by
  apply status_eq_of_flags <;> simp

theorem flagC_withD (d : Bool) (s : State) : flagC (s.withD d).p = flagC s.p := flagC_putD s.p d

theorem addToA_withD (m : Byte) (c d : Bool) (s : State) : addToA m c (s.withD d) = (addToA m c s).withD d := by
  simp only [addToA, State.withD, addStatus_putD]

theorem subFromA_withD (m : Byte) (d : Bool) (s : State) : subFromA m (s.withD d) = (subFromA m s).withD d := by
  rw [subFromA, subFromA, flagC_withD, addToA_withD]

section
variable {s : State} (d : Bool)

theorem operandAddress_withD (ad : Addressing) : operandAddress ad (s.withD d) = operandAddress ad s := by
  cases ad <;> rfl

theorem read8_withD {a : Word} {u : State} {v : Byte} (h : read8 a s = .ok v u) :
    read8 a (s.withD d) = .ok v (u.withD d) := by
  rcases window_cases a with ha | ha | ha | ha
  · rw [read8_ram ha] at h; cases h; exact read8_ram ha
  · rw [read8_ppu ha] at h; cases h; exact read8_ppu ha
  · rw [read8_unmapped ha] at h; cases h
  · rw [read8_prg ha] at h; cases h; exact read8_prg ha

theorem write8_withD {a : Word} {u : State} {v : Byte} (h : write8 a v s = .ok () u) :
    write8 a v (s.withD d) = .ok () (u.withD d) := by
  rcases window_cases a with ha | ha | ha | ha
  · rw [write8_ram v ha] at h; cases h; exact write8_ram v ha
  · rw [write8_ppu v ha] at h; cases h; exact write8_ppu v ha
  · rw [write8_unmapped v ha] at h; cases h
  · rw [write8_prg v ha] at h; cases h

theorem loadOperand_withD {m : Operand} {u : State} {v : Byte} (h : loadOperand m s = .ok v u) :
    loadOperand m (s.withD d) = .ok v (u.withD d) := by
  cases m with
  | imm b | acc => cases h; rfl
  | mem ad =>
    rw [loadOperand, operandAddress_withD]
    exact read8_withD d h

variable {t : State}

section
variable {use : Byte → State → State} (huse : ∀ v u, use v (u.withD d) = (use v u).withD d)
include huse

/-- A read-class instruction that treats what it reads alike under either `D` does the same under either. -/
theorem readClass_withD {m : Operand} (h : readClass m use s = .next t) :
    readClass m use (s.withD d) = .next (t.withD d) := by
  obtain ⟨v, u, hl, rfl⟩ := readClass_next.1 h
  exact readClass_next.2 ⟨v, u.withD d, loadOperand_withD d hl, by rw [huse]; rfl⟩

/-- And so does a read-modify-write instruction. -/
theorem modifyClass_withD {ad : Addressing} {g : Byte → Byte} (h : modifyClass ad g use s = .next t) :
    modifyClass ad g use (s.withD d) = .next (t.withD d) := by
  obtain ⟨v, u, w, hr, hw, rfl⟩ := modifyClass_next.1 h
  rw [← operandAddress_withD d] at hr hw
  exact modifyClass_next.2 ⟨v, u.withD d, w.withD d, read8_withD d hr, write8_withD d hw, by rw [huse]; rfl⟩

end

/-- `ADC` adds the carry before, which is not `D`. -/
theorem exec_adc_withD {m : Operand} (h : exec (.adc m) s = .next t) :
    exec (.adc m) (s.withD d) = .next (t.withD d) := by
  refine readClass_withD d (fun v u => ?_) h
  rw [← addToA_withD, flagC_withD]

theorem exec_sbc_withD {m : Operand} (h : exec (.sbc m) s = .next t) :
    exec (.sbc m) (s.withD d) = .next (t.withD d) :=
  readClass_withD d (fun v u => subFromA_withD v d u) h

theorem exec_sbcStar_withD {b : Byte} (h : exec (.sbcStar b) s = .next t) :
    exec (.sbcStar b) (s.withD d) = .next (t.withD d) :=
  exec_sbc_withD d (m := .imm b) h

/-- `RRA` rotates the carry before into the byte it writes and adds, and it is not `D`. -/
theorem exec_rra_withD {ad : Addressing} (h : exec (.rra ad) s = .next t) :
    exec (.rra ad) (s.withD d) = .next (t.withD d) := by
  show execRra ad (s.withD d) = _
  rw [execRra, flagC_withD]
  exact modifyClass_withD d (fun v u => addToA_withD _ _ d u) h

theorem exec_isb_withD {ad : Addressing} (h : exec (.isb ad) s = .next t) :
    exec (.isb ad) (s.withD d) = .next (t.withD d) :=
  modifyClass_withD d (fun v u => subFromA_withD (v + 1) d u) h

end

/-- Settles O33: neither the accesses nor the addition or subtraction at the end depend on `D` or touch it. -/
theorem decimalFlagIsInert : Obligations.DecimalFlagIsInert := by
  intro m ad b d s t i hi h
  simp only [List.mem_cons, List.not_mem_nil, or_false] at hi
  obtain rfl | rfl | rfl | rfl | rfl := hi
  · exact exec_adc_withD d h
  · exact exec_sbc_withD d h
  · exact exec_sbcStar_withD d h
  · exact exec_rra_withD d h
  · exact exec_isb_withD d h

/-! ### Arithmetic, logic and compares -/

/-- Settles O37: all three are read class, with the addition or subtraction at the end. -/
theorem addAndSubtract : Obligations.AddAndSubtract := by
  intro m b s
  refine ⟨?adc, ?sbc, ?sbcStar⟩
  case adc => exact readsInto_of_readClass _ rfl (fun _ _ => rfl) (fun _ _ => rfl)
  case sbc => exact readsInto_of_readClass _ rfl (fun _ _ => rfl) (fun _ _ => rfl)
  case sbcStar => rfl

/-- Settles O38: the three are read class, and each writes `A` and the flags from `A` and the byte read. -/
theorem logicOnTheAccumulator : Obligations.LogicOnTheAccumulator := by
  intro m s
  refine ⟨?and, ?ora, ?eor⟩
  case and => exact readsInto_of_readClass _ rfl (fun _ _ => rfl) (fun _ _ => rfl)
  case ora => exact readsInto_of_readClass _ rfl (fun _ _ => rfl) (fun _ _ => rfl)
  case eor => exact readsInto_of_readClass _ rfl (fun _ _ => rfl) (fun _ _ => rfl)

/-- Settles O39: the four are read class, and each writes the flags alone. -/
theorem comparesAndBitTestSetFlagsOnly : Obligations.ComparesAndBitTestSetFlagsOnly := by
  intro m ad s
  refine ⟨?cmp, ?cpx, ?cpy, ?bit⟩
  case cmp => exact readsInto_of_readClass _ rfl (fun _ _ => rfl) (fun _ _ => rfl)
  case cpx => exact readsInto_of_readClass _ rfl (fun _ _ => rfl) (fun _ _ => rfl)
  case cpy => exact readsInto_of_readClass _ rfl (fun _ _ => rfl) (fun _ _ => rfl)
  case bit => exact readsInto_of_readClass _ rfl (fun _ _ => rfl) (fun _ _ => rfl)

end Sys2Proof.Machine
end

section
/-! PROOFS. The statements of 43_shift_incdec.md. -/

namespace Sys2Proof.Machine

/-! ### Shifts, rotates and steps of a byte -/

/-- A shift or rotate of the accumulator always completes (R124, R190 to R193). -/
theorem leaves_of_shiftClass_acc {i : Instr} {s : State} (g : Byte → Byte) (out : Byte → Bool)
    (h : exec i s = shiftClass .acc g out s) :
    Leaves i s { s with a := g s.a, p := shiftStatus s.p (out s.a) (g s.a), pc := s.pc + 1 } :=
  h

/-- A read-modify-write instruction that changes, besides the byte, the status alone, to `st` of the status before and
the byte read. -/
theorem modifiesTo_status {i : Instr} {ad : Addressing} {s : State} {g : Byte → Byte} (st : Byte → Byte → Byte)
    (h : exec i s = modifyClass ad g (fun v t => { t with p := st t.p v }) s) :
    ModifiesTo i ad s g fun v => { s with p := st s.p v } :=
  modifiesTo_of_modifyClass _ h (fun _ _ _ => rfl) (fun _ => rfl) (fun _ => rfl) (fun _ => rfl)

/-- A shift or rotate of memory is read-modify-write, and of the registers and flags changes the status alone (R190 to
R193). -/
theorem modifiesTo_of_shiftClass_mem {i : Instr} {ad : Addressing} {s : State} (g : Byte → Byte) (out : Byte → Bool)
    (h : exec i s = shiftClass (.mem ad) g out s) :
    ModifiesTo i ad s g fun v => { s with p := shiftStatus s.p (out v) (g v) } :=
  modifiesTo_status (fun p v => shiftStatus p (out v) (g v)) h

/-- Settles O40: each shift and rotate is one `shiftClass`, on the accumulator or on memory, and `INC` and `DEC` are
read-modify-write with `Z` and `N` from the byte written. -/
theorem shiftsRotatesAndSteps : Obligations.ShiftsRotatesAndSteps := by
  intro ad s
  refine ⟨?aslA, ?lsrA, ?rolA, ?rorA, ?asl, ?lsr, ?rol, ?ror, ?inc, ?dec⟩
  case aslA => exact leaves_of_shiftClass_acc aslResult leftOut rfl
  case lsrA => exact leaves_of_shiftClass_acc lsrResult rightOut rfl
  case rolA => exact leaves_of_shiftClass_acc (rolResult · (flagC s.p)) leftOut rfl
  case rorA => exact leaves_of_shiftClass_acc (rorResult · (flagC s.p)) rightOut rfl
  case asl => exact modifiesTo_of_shiftClass_mem aslResult leftOut rfl
  case lsr => exact modifiesTo_of_shiftClass_mem lsrResult rightOut rfl
  case rol => exact modifiesTo_of_shiftClass_mem (rolResult · (flagC s.p)) leftOut rfl
  case ror => exact modifiesTo_of_shiftClass_mem (rorResult · (flagC s.p)) rightOut rfl
  case inc => exact modifiesTo_status (fun p v => setNZ p (v + 1)) rfl
  case dec => exact modifiesTo_status (fun p v => setNZ p (v - 1)) rfl

/-! ### Steps of the index registers -/

/-- Settles O41: each step is its one opcode byte and an instruction of the implied class. -/
theorem stepsOfTheIndexRegisters : Obligations.StepsOfTheIndexRegisters := by
  intro s
  refine ⟨⟨rfl, ?inx⟩, ⟨rfl, ?iny⟩, ⟨rfl, ?dex⟩, ⟨rfl, ?dey⟩⟩
  case inx => exact leaves_of_impliedClass (t := { s with x := s.x + 1, p := setNZ s.p (s.x + 1) }) rfl
  case iny => exact leaves_of_impliedClass (t := { s with y := s.y + 1, p := setNZ s.p (s.y + 1) }) rfl
  case dex => exact leaves_of_impliedClass (t := { s with x := s.x - 1, p := setNZ s.p (s.x - 1) }) rfl
  case dey => exact leaves_of_impliedClass (t := { s with y := s.y - 1, p := setNZ s.p (s.y - 1) }) rfl

end Sys2Proof.Machine
end

section
/-! PROOFS. The statements of 44_control_stack_flags.md. -/

namespace Sys2Proof.Machine

/-! ### Jumps -/

/-- An address outside the unmapped window reads, and changes at most the record of hook calls (R55, R302). -/
theorem exists_read8_of_mapped {a : Word} (h : ¬ InUnmapped a) (s : State) :
    ∃ v calls, read8 a s = .ok v { s with ppuCalls := calls } :=
  (read8_cases a s).resolve_right fun hu => h hu.1

/-- The high byte of an Indirect pointer is in the page of the low byte (R133). -/
theorem indirectHighAddress_page (w : Word) : (indirectHighAddress w).toNat / 256 = w.toNat / 256 := by
  have hpage : w.toNat / 2 ^ 8 % 2 ^ 8 = w.toNat / 2 ^ 8 := Nat.mod_eq_of_lt (by have := w.isLt; omega)
  calc (indirectHighAddress w).toNat / 2 ^ 8
      = (w.toNat / 2 ^ 8 &&& (2 ^ 8 - 1)) ||| ((w + 1).toNat / 2 ^ 8 &&& 0) := by
        rw [indirectHighAddress, BitVec.toNat_or, BitVec.toNat_and, BitVec.toNat_and, Nat.or_div_two_pow,
          Nat.and_div_two_pow, Nat.and_div_two_pow]
        rfl
    _ = w.toNat / 2 ^ 8 := by rw [Nat.and_zero, Nat.or_zero, Nat.and_two_pow_sub_one_eq_mod, hpage]

/-- A page lies in one window, so both bytes of an Indirect pointer do (R51, R133). -/
theorem indirectHighAddress_inUnmapped_iff (w : Word) : InUnmapped (indirectHighAddress w) ↔ InUnmapped w := by
  have hpage := indirectHighAddress_page w
  omega

theorem jumpTarget_ind_of_read8 {ptr : Word} {s t u : State} {l h : Byte} (hl : read8 ptr s = .ok l t)
    (hh : read8 (indirectHighAddress ptr) t = .ok h u) : jumpTarget (.ind ptr) s = .ok (wordOf h l) u :=
  Access.bind_ok.2 ⟨l, t, hl, Access.bind_ok.2 ⟨h, u, hh, rfl⟩⟩

theorem leaves_jmp {j : JumpTarget} {s u : State} {w : Word} (h : jumpTarget j s = .ok w u) :
    Leaves (.jmp j) s { u with pc := w } :=
  Access.conclude_next.2 ⟨w, u, h, rfl⟩

theorem exec_jmp_ind_unmapped {ptr : Word} {s : State} (h : InUnmapped ptr) :
    exec (.jmp (.ind ptr)) s = .fault (.fatal (.unmappedAddress ptr .read) s.ppuCalls) := by
  have hstop : jumpTarget (.ind ptr) s = .stop (.unmappedAddress ptr .read) s.ppuCalls :=
    Access.bind_stop.2 (.inl (read8_unmapped h))
  show (jumpTarget (.ind ptr) s).conclude jumpTo = _
  rw [hstop]
  rfl

/-- Settles O43: both bytes of a mapped pointer read, since they are in one page and so in one window. -/
theorem jumpGoesToItsTarget : Obligations.JumpGoesToItsTarget := by
  refine fun w s => ⟨leaves_jmp rfl, fun hw => ?_, exec_jmp_ind_unmapped⟩
  obtain ⟨l, calls, hl⟩ := exists_read8_of_mapped hw s
  have hhigh : ¬ InUnmapped (indirectHighAddress w) := mt (indirectHighAddress_inUnmapped_iff w).1 hw
  obtain ⟨h, calls', hh⟩ := exists_read8_of_mapped hhigh { s with ppuCalls := calls }
  exact ⟨l, h, _, _, hl, hh, rfl, leaves_jmp (jumpTarget_ind_of_read8 hl hh)⟩

/-! ### Calls and returns -/

/-- A word pushed takes the slots at `SP` and one below, wrapping (R68). -/
theorem push16_eq (w : Word) (s : State) :
    push16 w s = { s with
      mem := (s.mem.set (stackCell s.sp) (hi w)).set (stackCell (s.sp - 1)) (lo w), sp := s.sp - 2 } := by
  have hsp : s.sp - 2 = s.sp - 1 - 1 := (sub_sub s.sp 1 1).symm
  rw [hsp]
  rfl

/-- A word pulled frees the two slots above `SP`, wrapping (R69). -/
theorem pull16_eq (s : State) : pull16 s = { s with sp := s.sp + 2 } := by
  have hsp : s.sp + 2 = s.sp + 1 + 1 := (add_assoc s.sp 1 1).symm
  rw [hsp]
  rfl

theorem pulledWord_eq (s : State) :
    pulledWord s = wordOf (s.mem.get (stackCell (s.sp + 2))) (s.mem.get (stackCell (s.sp + 1))) := by
  have hsp : s.sp + 2 = s.sp + 1 + 1 := (add_assoc s.sp 1 1).symm
  rw [hsp]
  rfl

/-- Settles O44: `JSR` is a push of a word, `RTS` a pull of one. -/
theorem subroutineCallAndReturn : Obligations.SubroutineCallAndReturn := by
  refine fun w s => ⟨⟨rfl, leaves_of_next (w := jumpTo w (push16 (s.pc + 2) s)) rfl ?jsr⟩,
    ⟨rfl, leaves_of_next (w := jumpTo (pulledWord s + 1) (pull16 s)) rfl ?rts⟩⟩
  case jsr =>
    rw [push16_eq]
    rfl
  case rts =>
    rw [pulledWord_eq, pull16_eq]
    rfl

/-- What a pull of a word gives depends on `SP` and the two slots above it alone (R69). -/
theorem pulledWord_congr {r t : State} (hsp : r.sp = t.sp)
    (hl : r.mem.get (stackCell (t.sp + 1)) = t.mem.get (stackCell (t.sp + 1)))
    (hh : r.mem.get (stackCell (t.sp + 2)) = t.mem.get (stackCell (t.sp + 2))) : pulledWord r = pulledWord t := by
  rw [pulledWord_eq, pulledWord_eq, hsp, hl, hh]

/-- Settles O45: `RTS` pulls the word that `JSR` pushed, the address of the last byte of the `JSR`. -/
theorem returnComesBackAfterTheCall : Obligations.ReturnComesBackAfterTheCall := by
  intro w s t r u hcall hsp hmem hret
  cases hcall
  cases hret
  have hlow : (push16 (s.pc + 2) s).sp + 1 = s.sp - 1 := sub_add_cancel _ _
  have hhigh : (push16 (s.pc + 2) s).sp + 2 = s.sp := by rw [push16_eq]; exact sub_add_cancel _ _
  have hword : pulledWord r = s.pc + 2 := by
    rw [← pulledWord_push16 (s.pc + 2) s]
    exact pulledWord_congr hsp (hmem _ (.inr (congrArg stackCell hlow))) (hmem _ (.inl (congrArg stackCell hhigh)))
  constructor
  · show pulledWord r + 1 = s.pc + 3
    rw [hword, add_assoc]
    rfl
  · show (pull16 r).sp = s.sp
    rw [pull16_eq, hsp]
    exact hhigh

/-- Settles O46: the status, then a word from the two slots above it. (The obligation's plain name is the model's own
`returnFromInterrupt`.) -/
theorem returnFromInterrupt_holds : Obligations.ReturnFromInterrupt := by
  refine fun s => ⟨rfl, leaves_of_next (w := returnFromInterrupt s) rfl ?_⟩
  have hlow : s.sp + 2 = s.sp + 1 + 1 := (add_assoc s.sp 1 1).symm
  have hhigh : s.sp + 3 = s.sp + 1 + 2 := (add_assoc s.sp 1 2).symm
  rw [returnFromInterrupt, pulledWord_eq, pull16_eq, hlow, hhigh]
  rfl

/-! ### `BRK` -/

/-- The vectored `BRK`, with the vector as it stood before the pushes (R222, R311). -/
theorem takeBreak_eq (s : State) :
    takeBreak s =
      { push8 (pushedStatus s.p) (push16 (s.pc + 2) s) with p := putI s.p true, pc := vectorAt s 0xFFFE } := by
  rw [← takeBreak_pc]
  rfl

/-- Settles O47: the vector is in the PRG window, which the bus reads with no effect and no push reaches. -/
theorem breakHaltsOrTakesTheVector : Obligations.BreakHaltsOrTakesTheVector := by
  intro s
  refine ⟨exec_brk_halt, fun hvec => ⟨_, read16_prg s (by decide) (by decide), ?_⟩⟩
  refine leaves_of_next (exec_brk_vectored hvec) ?_
  have hsp : s.sp - 3 = s.sp - 2 - 1 := (sub_sub s.sp 2 1).symm
  rw [takeBreak_eq, push16_eq, hsp]
  rfl

/-! ### Stack instructions -/

/-- Settles O49: each is its one opcode byte and a push or pull of the implied class. -/
theorem stackInstructions : Obligations.StackInstructions := by
  intro s
  refine ⟨⟨rfl, ?pha⟩, ⟨rfl, ?pla⟩, ⟨rfl, ?php⟩, ⟨rfl, ?plp⟩⟩
  case pha => exact leaves_of_impliedClass (t := push8 s.a s) rfl
  case pla =>
    exact leaves_of_impliedClass (t := { pull8 s with a := pulledByte s, p := setNZ s.p (pulledByte s) }) rfl
  case php => exact leaves_of_impliedClass (t := push8 (pushedStatus s.p) s) rfl
  case plp => exact leaves_of_impliedClass (t := { pull8 s with p := pulledStatus (pulledByte s) }) rfl

/-- A pushed status pulls as it was, where bit 5 was 1 and `B` 0: they are the two bits that change (R35). -/
theorem pulledStatus_pushedStatus {p : Byte} (h : StatusOk p) : pulledStatus (pushedStatus p) = p := by
  obtain ⟨h5, hB⟩ := h
  apply status_eq_of_flags <;> simp [h5, hB]

/-- Settles O50: the byte pulled is the status image pushed. -/
theorem pullStatusUndoesPushStatus : Obligations.PullStatusUndoesPushStatus := by
  intro s t u hs hpush hpull
  cases hpush
  cases hpull
  constructor
  · show pulledStatus (pulledByte (push8 (pushedStatus s.p) s)) = s.p
    rw [pulledByte_push8, pulledStatus_pushedStatus hs]
  · exact pull8_push8_sp (pushedStatus s.p) s

/-! ### Flag instructions -/

/-- An implied instruction that changes the status alone. -/
theorem leaves_of_status {i : Instr} {s : State} (q : Byte) (h : exec i s = impliedClass { s with p := q }) :
    Leaves i s { s with p := q, pc := s.pc + 1 } :=
  leaves_of_impliedClass h

/-- Settles O51: each is its one opcode byte and puts its flag to a fixed value. -/
theorem flagInstructions : Obligations.FlagInstructions := by
  intro s
  refine ⟨⟨rfl, ?clc⟩, ⟨rfl, ?sec⟩, ⟨rfl, ?cld⟩, ⟨rfl, ?sed⟩, ⟨rfl, ?cli⟩, ⟨rfl, ?sei⟩, ⟨rfl, ?clv⟩⟩
  case clc => exact leaves_of_status (putC s.p false) rfl
  case sec => exact leaves_of_status (putC s.p true) rfl
  case cld => exact leaves_of_status (putD s.p false) rfl
  case sed => exact leaves_of_status (putD s.p true) rfl
  case cli => exact leaves_of_status (putI s.p false) rfl
  case sei => exact leaves_of_status (putI s.p true) rfl
  case clv => exact leaves_of_status (putV s.p false) rfl

/-! ### No-operation forms -/

/-- An instruction that only advances goes on by the size of its mode (R121). -/
theorem leaves_of_advance {i : Instr} {m : Mode} {s : State} {n : Nat} (h : exec i s = .next (advance m s))
    (hsize : m.size = n) : Leaves i s { s with pc := s.pc + BitVec.ofNat 16 n } := by
  subst hsize
  exact h

/-- Settles O52: the four only advance, by the one size that the modes of each have. -/
theorem noOperationForms : Obligations.NoOperationForms := by
  intro op m ad s
  refine ⟨leaves_of_impliedClass rfl, leaves_of_impliedClass rfl, fun hm => ?dop, fun hm => ?top⟩
  case dop =>
    have hsize : ∀ mode ∈ [Mode.immediate, .zeroPage, .zeroPageX], mode.size = 2 := by decide
    exact leaves_of_advance rfl (hsize m.mode hm)
  case top =>
    have hsize : ∀ mode ∈ [Mode.absolute, .absoluteX], mode.size = 3 := by decide
    exact leaves_of_advance rfl (hsize ad.mode hm)

end Sys2Proof.Machine
end

section
/-! PROOFS. The statements of 45_undocumented.md. -/

namespace Sys2Proof.Machine

/-! ### `LAX` and `LAR` -/

/-- Settles O53: both are read class, `LAR` where the unstable instructions have their meaning. -/
theorem loadsOfTwoRegisters : Obligations.LoadsOfTwoRegisters := by
  refine fun ad w s => ⟨?lax, fun hspec => ?lar⟩
  case lax => exact readsInto_of_readClass _ rfl (fun _ _ => rfl) (fun _ _ => rfl)
  case lar =>
    exact readsInto_of_readClass _ (unstableClass_asSpecified hspec) (fun _ _ => rfl) (fun _ _ => rfl)

/-! ### The read-modify-write compositions -/

/-- A read-modify-write instruction whose second half changes, of registers and flags, at most `A` and the status, both
functions of the byte read (R274). -/
theorem modifiesTo_accumulator {i : Instr} {ad : Addressing} {s : State} {g : Byte → Byte}
    {use : Byte → State → State} (a p : Byte → Byte) (h : exec i s = modifyClass ad g use s)
    (huse : ∀ v mem calls, use v { s with mem := mem, ppuCalls := calls } =
      { s with a := a v, p := p v, mem := mem, ppuCalls := calls }) :
    ModifiesTo i ad s g fun v => { s with a := a v, p := p v } :=
  modifiesTo_of_modifyClass use h huse (fun _ => rfl) (fun _ => rfl) (fun _ => rfl)

/-- Settles O54: the six are read-modify-write, and the second half of each is a function of the byte read. -/
theorem compositionsUseTheWrittenValue : Obligations.CompositionsUseTheWrittenValue := by
  intro ad s
  refine ⟨?dcp, ?isb, ?slo, ?rla, ?sre, ?rra⟩
  case dcp => exact modifiesTo_accumulator _ _ rfl fun _ _ _ => rfl
  case isb => exact modifiesTo_accumulator _ _ rfl fun _ _ _ => rfl
  case slo => exact modifiesTo_accumulator _ _ rfl fun _ _ _ => rfl
  case rla => exact modifiesTo_accumulator _ _ rfl fun _ _ _ => rfl
  case sre => exact modifiesTo_accumulator _ _ rfl fun _ _ _ => rfl
  case rra => exact modifiesTo_accumulator _ _ rfl fun _ _ _ => rfl

/-! ### The Immediate combinations -/

/-- An Immediate instruction that changes at most `A`, `X` and the status goes on two bytes further (R121, R125). -/
theorem leaves_of_immediate {i : Instr} {s : State} {a x p : Byte}
    (h : exec i s = .next (advance .immediate { s with a := a, x := x, p := p })) :
    Leaves i s { s with a := a, x := x, p := p, pc := s.pc + 2 } :=
  h

/-- `Z` and `N` after a compare are those of the difference (R175). -/
theorem compareStatus_eq_setNZ (p r m : Byte) :
    compareStatus p r m = setNZ (putC p (decide (m.toNat ≤ r.toNat))) (r - m) := by
  have hz : (r == m) = (r - m == 0) := Bool.eq_iff_iff.2 (by rw [beq_iff_eq, beq_iff_eq, sub_eq_zero])
  rw [compareStatus, hz]
  rfl

/-- Settles O55: an Immediate operand always reads, so the five complete; `AXS` takes its flags from a compare. -/
theorem immediateCombinations : Obligations.ImmediateCombinations := by
  intro op b s
  refine ⟨?aac, ⟨_, rfl, ?arr⟩, ?asr, ?axs, ⟨_, rfl, ?atx⟩⟩
  case aac => exact leaves_of_immediate rfl
  case arr => exact leaves_of_immediate rfl
  case asr => exact leaves_of_immediate rfl
  case axs =>
    rw [← compareStatus_eq_setNZ]
    exact leaves_of_immediate rfl
  case atx => exact leaves_of_immediate rfl

/-! ### The unstable instructions -/

/-- Settles O56: with their meaning the four are store class; `XAS` stores from the state whose `SP` is written, which
moves neither the operand address nor the byte stored. -/
theorem unstableStoresMaskWithHighByte : Obligations.UnstableStoresMaskWithHighByte := by
  intro ad w s hspec
  refine ⟨?axa, ?sxa, ?sya, ?xas⟩
  case axa => exact storesTo_self (unstableClass_asSpecified hspec)
  case sxa => exact storesTo_self (unstableClass_asSpecified hspec)
  case sya => exact storesTo_self (unstableClass_asSpecified hspec)
  case xas => exact storesTo_of_storeClass (unstableClass_asSpecified hspec) rfl rfl rfl rfl

/-- Settles O57: the configuration decides before the meaning does anything. -/
theorem unstableInstructionsRefusedWhenConfigured : Obligations.UnstableInstructionsRefusedWhenConfigured := by
  intro ad w s hrefuse
  refine ⟨?axa, ?sxa, ?sya, ?xas, ?lar⟩
  case axa => exact unstableClass_refuse hrefuse
  case sxa => exact unstableClass_refuse hrefuse
  case sya => exact unstableClass_refuse hrefuse
  case xas => exact unstableClass_refuse hrefuse
  case lar => exact unstableClass_refuse hrefuse

/-! ### `KIL` and `XAA` -/

/-- The one mode of `XAA` is its mnemonic's, so its opcode byte decides (R273). -/
theorem wellFormed_xaa_iff (op b : Byte) : (Instr.xaa (op, b)).wellFormed = true ↔ op = 0x8B := by
  have hmode : (Instr.xaa (op, b)).mode ∈ modesOf .xaa := List.mem_singleton.2 rfl
  exact wellFormed_iff.trans ((and_iff_left hmode).trans beq_iff_eq)

/-- The one mode of `KIL` is its mnemonic's, so its opcode byte decides (R272). -/
theorem wellFormed_kil_iff (op : Byte) : (Instr.kil op).wellFormed = true ↔ op ∈ kilBytes := by
  have hmode : (Instr.kil op).mode ∈ modesOf .kil := List.mem_singleton.2 rfl
  exact wellFormed_iff.trans ((and_iff_left hmode).trans List.contains_iff_mem)

/-- Settles O58: neither does anything but fault, and each has the opcode bytes of its rule. -/
theorem kilAndXaaAreFatal : Obligations.KilAndXaaAreFatal :=
  fun op b _ => ⟨rfl, rfl, wellFormed_xaa_iff op b, rfl, wellFormed_kil_iff op⟩

end Sys2Proof.Machine
end

section
/-! PROOFS. The statements of 60_exceptions.md. -/

namespace Sys2Proof.Machine

/-- What a pull of a byte gives depends on `SP` and the slot above it alone (R67). -/
theorem pulledByte_congr {r t : State} (hsp : r.sp = t.sp)
    (h : r.mem.get (stackCell (t.sp + 1)) = t.mem.get (stackCell (t.sp + 1))) : pulledByte r = pulledByte t := by
  rw [pulledByte, pulledByte, hsp, h]

/-- The slots of a word on the stack are above the slot at `SP`, which a push of one byte writes. -/
theorem pulledWord_pull8_push8 (v : Byte) (s : State) : pulledWord (pull8 (push8 v s)) = pulledWord s := by
  have hget : ∀ d : Byte, d ≠ 0 → (push8 v s).mem.get (stackCell (s.sp + d)) = s.mem.get (stackCell (s.sp + d)) :=
    fun d hd => Memory.get_set_ne _ v fun h => hd (add_eq_left.1 (stackCell_inj.1 h))
  exact pulledWord_congr (pull8_push8_sp v s) (hget 1 (by decide)) (hget 2 (by decide))

/-- The slot above the `SP` that a vectored `BRK` leaves holds the status image (R312). -/
theorem pulledByte_takeBreak (s : State) : pulledByte (takeBreak s) = pushedStatus s.p := by
  have hcongr : pulledByte (takeBreak s) = pulledByte (push8 (pushedStatus s.p) (push16 (s.pc + 2) s)) :=
    pulledByte_congr rfl rfl
  rw [hcongr, pulledByte_push8]

/-- Above the status image stands the return address (R312). -/
theorem pulledWord_pull8_takeBreak (s : State) : pulledWord (pull8 (takeBreak s)) = s.pc + 2 := by
  have hcongr : pulledWord (pull8 (takeBreak s)) =
      pulledWord (pull8 (push8 (pushedStatus s.p) (push16 (s.pc + 2) s))) := pulledWord_congr rfl rfl rfl
  rw [hcongr, pulledWord_pull8_push8, pulledWord_push16]

/-- What `RTI` restores depends on `SP` and the three slots above it alone (R313). -/
theorem returnFromInterrupt_congr {r t : State} (hsp : r.sp = t.sp)
    (hmem : ∀ d ∈ ([1, 2, 3] : List Byte), r.mem.get (stackCell (t.sp + d)) = t.mem.get (stackCell (t.sp + d))) :
    (returnFromInterrupt r).pc = (returnFromInterrupt t).pc ∧ (returnFromInterrupt r).sp = (returnFromInterrupt t).sp ∧
      (returnFromInterrupt r).p = (returnFromInterrupt t).p := by
  have hpull : (pull8 r).sp = (pull8 t).sp := congrArg (· + 1) hsp
  have hlow : t.sp + 1 + 1 = t.sp + 2 := add_assoc t.sp 1 1
  have hhigh : t.sp + 1 + 2 = t.sp + 3 := add_assoc t.sp 1 2
  refine ⟨pulledWord_congr hpull ?low ?high, congrArg (· + 1 + 1 + 1) hsp,
    congrArg pulledStatus (pulledByte_congr hsp (hmem 1 (by decide)))⟩
  case low =>
    rw [pull8_sp, hlow]
    exact hmem 2 (by decide)
  case high =>
    rw [pull8_sp, hhigh]
    exact hmem 3 (by decide)

/-- `RTI` straight after a vectored `BRK` (R311, R313). -/
theorem returnFromInterrupt_takeBreak {s : State} (h : StatusOk s.p) :
    (returnFromInterrupt (takeBreak s)).pc = s.pc + 2 ∧ (returnFromInterrupt (takeBreak s)).sp = s.sp ∧
      (returnFromInterrupt (takeBreak s)).p = s.p := by
  refine ⟨pulledWord_pull8_takeBreak s, ?sp, ?status⟩
  case sp => simp
  case status => rw [returnFromInterrupt_p, pulledByte_takeBreak, pulledStatus_pushedStatus h]

/-- The slots above the `SP` that a vectored `BRK` leaves are the three it wrote (R312). -/
theorem takeBreak_sp_add (s : State) :
    (takeBreak s).sp + 1 = s.sp - 2 ∧ (takeBreak s).sp + 2 = s.sp - 1 ∧ (takeBreak s).sp + 3 = s.sp := by
  rw [takeBreak_sp]
  exact ⟨by bv_omega, by bv_omega, by bv_omega⟩

/-- Settles O48: `RTI` restores from the three slots that the vectored `BRK` wrote, and from nothing else. -/
theorem interruptReturnUndoesBreak : Obligations.InterruptReturnUndoesBreak := by
  intro s t r u hvec hstatus hbreak hsp hmem hret
  cases (exec_brk_vectored hvec).symm.trans hbreak
  cases hret
  obtain ⟨hfirst, hsecond, hthird⟩ := takeBreak_sp_add s
  have hslots : ∀ d ∈ ([1, 2, 3] : List Byte),
      r.mem.get (stackCell ((takeBreak s).sp + d)) = (takeBreak s).mem.get (stackCell ((takeBreak s).sp + d)) := by
    simp only [List.forall_mem_cons, hfirst, hsecond, hthird]
    exact ⟨hmem _ (.inr (.inr rfl)), hmem _ (.inr (.inl rfl)), hmem _ (.inl rfl), List.forall_mem_nil _⟩
  obtain ⟨hpc, hspEq, hp⟩ := returnFromInterrupt_congr hsp hslots
  obtain ⟨hpc', hsp', hp'⟩ := returnFromInterrupt_takeBreak hstatus
  exact ⟨hpc.trans hpc', hspEq.trans hsp', hp.trans hp'⟩

end Sys2Proof.Machine
end

section
/-! PROOFS. The statements of 70_reset_and_hazards.md. -/

namespace Sys2Proof.Machine

/-! ### The reset sequence -/

/-- An override is where the run starts (R341). -/
theorem resetSequence_pc_of_override {s : State} {w : Word} (h : s.cfg.resetPcOverride = some w) :
    (resetSequence s).pc = w := by
  simp only [resetSequence, h]

/-- Without one the run starts at the reset vector (R341). -/
theorem resetSequence_pc_of_vector {s : State} (h : s.cfg.resetPcOverride = none) :
    (resetSequence s).pc = vectorAt s 0xFFFC := by
  simp only [resetSequence, h]

/-- Settles O10: the reset vector lies in PRG, so its two bytes are read through the bus without effect. -/
theorem resetSequenceSetsRegisters : Obligations.ResetSequenceSetsRegisters := by
  intro s
  have hvector : s.cfg.resetPcOverride = none → read16 0xFFFC s = .ok (resetSequence s).pc s := fun h => by
    rw [resetSequence_pc_of_vector h]
    exact read16_prg s (by decide) (by decide)
  exact ⟨rfl, rfl, rfl, rfl, rfl, rfl, fun _ => resetSequence_pc_of_override, hvector, rfl, rfl, rfl⟩

/-! ### The admitted lengths -/

/-- The admitted lengths of a cartridge are those of the two sizes (R38, D6). -/
theorem prgSizeOf_eq_some {prg : List Byte} {sz : PrgSize} (h : prg.length = prgLength sz) :
    prgSizeOf prg = some sz := by
  cases sz
  case kib16 => exact if_pos h
  case kib32 =>
    have h16 : prg.length ≠ 0x4000 := by
      rw [h]
      decide
    exact (if_neg h16).trans (if_pos h)

theorem prgSizeOf_eq_none {prg : List Byte} (h16 : prg.length ≠ 0x4000) (h32 : prg.length ≠ 0x8000) :
    prgSizeOf prg = none := by
  rw [prgSizeOf, if_neg h16, if_neg h32]

/-- Both sizes map the window from its first address on, modulo the length of the cartridge (R56). -/
theorem prgOffset_eq_mod {a : Word} (sz : PrgSize) (h : InPrg a) :
    prgOffset sz a = (a.toNat - 0x8000) % prgLength sz := by
  have ha := a.isLt
  cases sz
  case kib16 => show a.toNat % 0x4000 = (a.toNat - 0x8000) % 0x4000; omega
  case kib32 => exact (Nat.mod_eq_of_lt (show a.toNat - 0x8000 < 0x8000 by omega)).symm

/-! ### The memory of a constructed machine -/

/-- Where the second of two memories lists nothing, the first is read. -/
theorem Memory.get_append_left (m : Memory) {n : Memory} {k : Nat} (h : ∀ c ∈ n, c.1 ≠ k) :
    Memory.get (m ++ n) k = m.get k := by
  rw [Memory.get_append]
  split
  next => rfl
  next hm =>
    have hm' : ∀ c ∈ m, c.1 ≠ k := fun c hc hk => hm ⟨c, hc, hk⟩
    rw [Memory.get_of_not_mem h, Memory.get_of_not_mem hm']

/-- Where the first of two memories lists nothing, the second is read. -/
theorem Memory.get_append_right {m : Memory} (n : Memory) {k : Nat} (h : ∀ c ∈ m, c.1 ≠ k) :
    Memory.get (m ++ n) k = n.get k := by
  rw [Memory.get_append, if_neg fun ⟨c, hc, hk⟩ => h c hc hk]

/-- The memory that construction builds: the RAM contents, then the cartridge (R344). -/
def builtMemory (prg ram : List Byte) : Memory :=
  Memory.ofBytes 0 (ram.take 0x800) ++ Memory.ofBytes 0x8000 prg

/-- The RAM entries come from the first 2,048 bytes of the contents (R37). -/
theorem ram_entry_lt {ram : List Byte} {c : Host.Cell} (h : c ∈ Memory.ofBytes 0 (ram.take 0x800)) : c.1 < 0x800 := by
  have hlt := (Memory.mem_ofBytes h).2.1
  have htake := List.length_take_le 0x800 ram
  omega

theorem builtMemory_wf (prg ram : List Byte) : (builtMemory prg ram).wf :=
  Memory.append_wf 0x8000 (Memory.ofBytes_wf 0 _) (Memory.ofBytes_wf 0x8000 prg)
    (fun _ hc => (ram_entry_lt hc).trans (by decide)) (fun _ hc => (Memory.mem_ofBytes hc).1)

theorem builtMemory_placed {prg : List Byte} {sz : PrgSize} (ram : List Byte) (h : prg.length = prgLength sz) :
    Placed sz (builtMemory prg ram) := by
  intro c hc
  rcases List.mem_append.1 hc with hram | hprg
  · exact .inl (ram_entry_lt hram)
  · obtain ⟨hge, hlt, -⟩ := Memory.mem_ofBytes hprg
    exact .inr ⟨hge, h ▸ hlt⟩

/-- The RAM cells read as the contents (R37, D4). -/
theorem builtMemory_get_ram (prg : List Byte) {ram : List Byte} {k : Nat} (hram : ram.length = 0x800)
    (hk : k < 0x800) : (builtMemory prg ram).get k = ram.getD k 0 := by
  have hprg : ∀ c ∈ Memory.ofBytes 0x8000 prg, c.1 ≠ k := fun c hc => by
    have hge := (Memory.mem_ofBytes hc).1
    omega
  rw [builtMemory, Memory.get_append_left _ hprg, List.take_of_length_le hram.le, Memory.get_ofBytes,
    if_pos k.zero_le, Nat.sub_zero]
  rfl

/-- The PRG window reads as the cartridge (R38, R56). -/
theorem builtMemory_get_prg {prg : List Byte} {sz : PrgSize} (ram : List Byte) {a : Word}
    (h : prg.length = prgLength sz) (ha : InPrg a) :
    (builtMemory prg ram).get (prgCell sz a) = prg.getD ((a.toNat - 0x8000) % prg.length) 0 := by
  have hcell := prgCell_bound sz a
  have hram : ∀ c ∈ Memory.ofBytes 0 (ram.take 0x800), c.1 ≠ prgCell sz a := fun c hc => by
    have hlt := ram_entry_lt hc
    omega
  rw [builtMemory, Memory.get_append_right _ hram, Memory.get_ofBytes, if_pos hcell, prgCell, Nat.add_sub_cancel_left,
    prgOffset_eq_mod sz ha, h]
  rfl

/-! ### Construction -/

/-- The machine as built, before its first reset (R344). -/
def builtState (cfg : Config) (sz : PrgSize) (prg ram : List Byte) : State :=
  { State.reset with cfg := { cfg with prgSize := sz }, mem := builtMemory prg ram }

/-- The initial state of a run: the built machine after one reset (R344, R345). -/
def initialState (cfg : Config) (sz : PrgSize) (prg ram : List Byte) : State :=
  { resetSequence (builtState cfg sz prg ram) with cycles := 0 }

theorem boot_admitted (cfg : Config) {sz : PrgSize} {prg : List Byte} (ram : List Byte)
    (h : prg.length = prgLength sz) : boot cfg prg ram = .next (initialState cfg sz prg ram) := by
  rw [boot, prgSizeOf_eq_some h]
  rfl

/-- A cartridge of another length is not admitted (D6). -/
theorem boot_refused (cfg : Config) {prg : List Byte} (ram : List Byte) (h16 : prg.length ≠ 0x4000)
    (h32 : prg.length ≠ 0x8000) : boot cfg prg ram = .refused (.prgLength prg.length) := by
  rw [boot, prgSizeOf_eq_none h16 h32]

/-- The byte behind an address of the RAM window is that of its RAM cell, through the mirrors (R52). -/
theorem storedByte_ram {s : State} {a : Word} (h : InRam a) :
    storedByte s a = some (s.mem.get (a.toNat % 0x800)) := by
  simp [storedByte, cellOf, window_ram _ h]

section
variable {cfg : Config} {sz : PrgSize} {prg ram : List Byte}

theorem initialState_inv (h : prg.length = prgLength sz) : Inv (initialState cfg sz prg ram) where
  wf     := builtMemory_wf prg ram
  placed := builtMemory_placed ram h
  status := resetMeetsInvariant.status

theorem initialState_storedByte_ram (hram : ram.length = 0x800) {a : Word} (ha : InRam a) :
    storedByte (initialState cfg sz prg ram) a = some (ram.getD (a.toNat % 0x800) 0) :=
  (storedByte_ram ha).trans (congrArg some (builtMemory_get_ram prg hram (Nat.mod_lt _ (by decide))))

theorem initialState_storedByte_prg (h : prg.length = prgLength sz) {a : Word} (ha : InPrg a) :
    storedByte (initialState cfg sz prg ram) a = some (prg.getD ((a.toNat - 0x8000) % prg.length) 0) :=
  (storedByte_prg ha).trans (congrArg some (builtMemory_get_prg ram h ha))

theorem initialState_pc_of_override {w : Word} (h : cfg.resetPcOverride = some w) :
    (initialState cfg sz prg ram).pc = w :=
  resetSequence_pc_of_override (s := builtState cfg sz prg ram) h

/-- The reset vector of the built machine is the cartridge's (R56, R341). -/
theorem initialState_pc_of_vector (h : prg.length = prgLength sz) (hnone : cfg.resetPcOverride = none) :
    (initialState cfg sz prg ram).pc =
      wordOf (prg.getD (0x7FFD % prg.length) 0) (prg.getD (0x7FFC % prg.length) 0) :=
  calc (initialState cfg sz prg ram).pc
    _ = vectorAt (builtState cfg sz prg ram) 0xFFFC := resetSequence_pc_of_vector hnone
    _ = wordOf (prg.getD (0x7FFD % prg.length) 0) (prg.getD (0x7FFC % prg.length) 0) :=
      congrArg₂ wordOf (builtMemory_get_prg ram h (a := 0xFFFD) (by decide))
        (builtMemory_get_prg ram h (a := 0xFFFC) (by decide))

end

/-- Settles O12: the size is the one of the cartridge's length, and the initial state is the reset of the machine built
with it. -/
theorem bootBuildsTheMachine : Obligations.BootBuildsTheMachine := by
  refine fun cfg prg ram hram => ⟨fun hlen => ?admitted, boot_refused cfg ram⟩
  case admitted =>
    obtain ⟨sz, hsz⟩ : ∃ sz, prg.length = prgLength sz := hlen.elim (⟨.kib16, ·⟩) (⟨.kib32, ·⟩)
    have hcfg (sz' : PrgSize) (h : prg.length = prgLength sz') :
        (initialState cfg sz prg ram).cfg = { cfg with prgSize := sz' } := by
      cases (prgSizeOf_eq_some hsz).symm.trans (prgSizeOf_eq_some h)
      rfl
    exact ⟨initialState cfg sz prg ram, boot_admitted cfg ram hsz, initialState_inv hsz, rfl, rfl, hcfg .kib16,
      hcfg .kib32, ⟨rfl, rfl, rfl, rfl, rfl⟩, fun _ => initialState_pc_of_override,
      fun _ => initialState_storedByte_ram hram, fun _ => initialState_storedByte_prg hsz,
      initialState_pc_of_vector hsz⟩

end Sys2Proof.Machine
end
